-- ==== Sys2Proof/Word.lean ====
section
/-! DEFINITION. The word types of the block (spec/00_scope.md R4, R6): bytes, 64-bit words, 32-bit command words. -/

namespace Sys2Proof

/-- One byte: a byte of the memory image (R60), of a handle's buffer (R38) or of a payload (R81). -/
abbrev Byte := BitVec 8

/-- A 64-bit word: a general register (R21), the flags word (R26), `pc` (R32), `wdata` and `rdata` (R81). -/
abbrev Word := BitVec 64

/-- The index of one of the sixteen general registers (R21: `x[0]` to `x[15]`). -/
abbrev RegIdx := Fin 16

end Sys2Proof
end

