-- ==== Sys2Proof/Syntax.lean ====
section
/-! DEFINITION. The commands of the block as syntax: the names a command word selects (views, flags, condition codes,
capabilities), the command as it is presented on a port (R81), and `Instr`, one constructor per row of
spec/opcode_table.json with every operand the command takes. -/

namespace Sys2Proof

/-- The twelve views of a general register (R22). The codes are R88, the bit ranges Machine/Operands.lean. -/
inductive View where
  | u64
  | i64
  | f64
  | u32
  | i32
  | f32
  | u16
  | i16
  | u8
  | i8
  | u8h
  | i8h
  deriving DecidableEq, Repr, Inhabited

/-- Is the view one of the two high-byte views, which exist for registers 0 to 3 only (R24)? -/
def View.isHigh : View → Bool
  | .u8h | .i8h => true
  | .u64 | .i64 | .f64 | .u32 | .i32 | .f32 | .u16 | .i16 | .u8 | .i8 => false

/-- The seventeen one-bit flags, in the order of their ids (R89). `IF` is written `ie`: `if` is a word of Lean. -/
inductive Flag where
  /-- `CF`, carry -/
  | cf
  /-- `PF`, parity -/
  | pf
  /-- `AF`, auxiliary-carry -/
  | af
  /-- `ZF`, zero -/
  | zf
  /-- `SF`, sign -/
  | sf
  /-- `TF`, trap -/
  | tf
  /-- `IF`, interrupt-enable -/
  | ie
  /-- `DF`, direction -/
  | df
  /-- `OF`, overflow -/
  | of
  /-- `NT`, nested-task -/
  | nt
  /-- `RF`, resume -/
  | rf
  /-- `VM`, virtual-8086 -/
  | vm
  /-- `AC`, alignment-check -/
  | ac
  /-- `VIF`, virtual-interrupt -/
  | vif
  /-- `VIP`, virtual-interrupt-pending -/
  | vip
  /-- `ID`, identification -/
  | id
  /-- `CT`, custom single-bit toggle -/
  | ct
  deriving DecidableEq, Repr, Inhabited

/-- The eight condition codes, in the order of their ids (R90). -/
inductive CondCode where
  /-- below -/
  | b
  /-- below-or-equal -/
  | be
  /-- above -/
  | a
  /-- above-or-equal -/
  | ae
  /-- less -/
  | l
  /-- less-or-equal -/
  | le
  /-- greater -/
  | g
  /-- greater-or-equal -/
  | ge
  deriving DecidableEq, Repr, Inhabited

/-- A command as it is presented on a port (R81): the command word, the 64-bit operand and the byte string. -/
structure Command where
  cmd : BitVec 32
  wdata : Word := 0
  payload : List Byte := []
  deriving DecidableEq, Repr, Inhabited

/-- The commands of the block (R87), one constructor per row of spec/opcode_table.json. `reg` is the register of
format `R`; `value`, `budget`, `count` and `handle` are `wdata` as presented (the meaning takes the low bits it uses, R84);
`slot` and `hid` are `idx`; `caps` is `sel[4:0]`; `bytes` is the payload. -/
inductive Instr where
  /-- `RGET.U64` -/
  | rgetU64 (reg : RegIdx)
  /-- `RGET.I64` -/
  | rgetI64 (reg : RegIdx)
  /-- `RGET.F64` -/
  | rgetF64 (reg : RegIdx)
  /-- `RGET.U32` -/
  | rgetU32 (reg : RegIdx)
  /-- `RGET.I32` -/
  | rgetI32 (reg : RegIdx)
  /-- `RGET.F32` -/
  | rgetF32 (reg : RegIdx)
  /-- `RGET.U16` -/
  | rgetU16 (reg : RegIdx)
  /-- `RGET.I16` -/
  | rgetI16 (reg : RegIdx)
  /-- `RGET.U8` -/
  | rgetU8 (reg : RegIdx)
  /-- `RGET.I8` -/
  | rgetI8 (reg : RegIdx)
  /-- `RGET.U8H` -/
  | rgetU8H (reg : RegIdx)
  /-- `RGET.I8H` -/
  | rgetI8H (reg : RegIdx)
  /-- `RSET.U64` -/
  | rsetU64 (reg : RegIdx) (value : Word)
  /-- `RSET.I64` -/
  | rsetI64 (reg : RegIdx) (value : Word)
  /-- `RSET.F64` -/
  | rsetF64 (reg : RegIdx) (value : Word)
  /-- `RSET.U32` -/
  | rsetU32 (reg : RegIdx) (value : Word)
  /-- `RSET.I32` -/
  | rsetI32 (reg : RegIdx) (value : Word)
  /-- `RSET.F32` -/
  | rsetF32 (reg : RegIdx) (value : Word)
  /-- `RSET.U16` -/
  | rsetU16 (reg : RegIdx) (value : Word)
  /-- `RSET.I16` -/
  | rsetI16 (reg : RegIdx) (value : Word)
  /-- `RSET.U8` -/
  | rsetU8 (reg : RegIdx) (value : Word)
  /-- `RSET.I8` -/
  | rsetI8 (reg : RegIdx) (value : Word)
  /-- `RSET.U8H` -/
  | rsetU8H (reg : RegIdx) (value : Word)
  /-- `RSET.I8H` -/
  | rsetI8H (reg : RegIdx) (value : Word)
  /-- `FGET.CF` -/
  | fgetCF
  /-- `FGET.PF` -/
  | fgetPF
  /-- `FGET.AF` -/
  | fgetAF
  /-- `FGET.ZF` -/
  | fgetZF
  /-- `FGET.SF` -/
  | fgetSF
  /-- `FGET.TF` -/
  | fgetTF
  /-- `FGET.IF` -/
  | fgetIF
  /-- `FGET.DF` -/
  | fgetDF
  /-- `FGET.OF` -/
  | fgetOF
  /-- `FGET.NT` -/
  | fgetNT
  /-- `FGET.RF` -/
  | fgetRF
  /-- `FGET.VM` -/
  | fgetVM
  /-- `FGET.AC` -/
  | fgetAC
  /-- `FGET.VIF` -/
  | fgetVIF
  /-- `FGET.VIP` -/
  | fgetVIP
  /-- `FGET.ID` -/
  | fgetID
  /-- `FGET.CT` -/
  | fgetCT
  /-- `FASSIGN.CF` -/
  | fassignCF (value : Word)
  /-- `FASSIGN.PF` -/
  | fassignPF (value : Word)
  /-- `FASSIGN.AF` -/
  | fassignAF (value : Word)
  /-- `FASSIGN.ZF` -/
  | fassignZF (value : Word)
  /-- `FASSIGN.SF` -/
  | fassignSF (value : Word)
  /-- `FASSIGN.TF` -/
  | fassignTF (value : Word)
  /-- `FASSIGN.IF` -/
  | fassignIF (value : Word)
  /-- `FASSIGN.DF` -/
  | fassignDF (value : Word)
  /-- `FASSIGN.OF` -/
  | fassignOF (value : Word)
  /-- `FASSIGN.NT` -/
  | fassignNT (value : Word)
  /-- `FASSIGN.RF` -/
  | fassignRF (value : Word)
  /-- `FASSIGN.VM` -/
  | fassignVM (value : Word)
  /-- `FASSIGN.AC` -/
  | fassignAC (value : Word)
  /-- `FASSIGN.VIF` -/
  | fassignVIF (value : Word)
  /-- `FASSIGN.VIP` -/
  | fassignVIP (value : Word)
  /-- `FASSIGN.ID` -/
  | fassignID (value : Word)
  /-- `FASSIGN.CT` -/
  | fassignCT (value : Word)
  /-- `IOPLGET` -/
  | ioplget
  /-- `IOPLASSIGN` -/
  | ioplassign (value : Word)
  /-- `FLAGSGET` -/
  | flagsget
  /-- `FLAGSSET` -/
  | flagsset (value : Word)
  /-- `CC.B` -/
  | ccB
  /-- `CC.BE` -/
  | ccBE
  /-- `CC.A` -/
  | ccA
  /-- `CC.AE` -/
  | ccAE
  /-- `CC.L` -/
  | ccL
  /-- `CC.LE` -/
  | ccLE
  /-- `CC.G` -/
  | ccG
  /-- `CC.GE` -/
  | ccGE
  /-- `INIT` -/
  | init (bytes : List Byte)
  /-- `EXEC` -/
  | exec (budget : Word)
  /-- `STATEGET` -/
  | stateget
  /-- `ERRGET` -/
  | errget
  /-- `RETGET` -/
  | retget
  /-- `STDIO` -/
  | stdio
  /-- `HNEW` -/
  | hnew (caps : BitVec 5)
  /-- `INSTALL` -/
  | install (slot : BitVec 16) (handle : Word)
  /-- `FREAD` -/
  | fread (slot : BitVec 16) (count : Word)
  /-- `FWRITE` -/
  | fwrite (slot : BitVec 16) (bytes : List Byte)
  /-- `HFEED` -/
  | hfeed (hid : BitVec 16) (bytes : List Byte)
  /-- `HDUMP` -/
  | hdump (hid : BitVec 16)
  /-- `FDOPEN` -/
  | fdopen (handle : Word)
  /-- `FDCLOSE` -/
  | fdclose (slot : BitVec 16)
  deriving DecidableEq, Repr, Inhabited

/-- `RGET.<view> reg` (R87, R98). -/
def Instr.rget (v : View) (reg : RegIdx) : Instr :=
  match v with
  | .u64 => .rgetU64 reg
  | .i64 => .rgetI64 reg
  | .f64 => .rgetF64 reg
  | .u32 => .rgetU32 reg
  | .i32 => .rgetI32 reg
  | .f32 => .rgetF32 reg
  | .u16 => .rgetU16 reg
  | .i16 => .rgetI16 reg
  | .u8 => .rgetU8 reg
  | .i8 => .rgetI8 reg
  | .u8h => .rgetU8H reg
  | .i8h => .rgetI8H reg

/-- `RSET.<view> reg, value` (R87, R98). -/
def Instr.rset (v : View) (reg : RegIdx) (value : Word) : Instr :=
  match v with
  | .u64 => .rsetU64 reg value
  | .i64 => .rsetI64 reg value
  | .f64 => .rsetF64 reg value
  | .u32 => .rsetU32 reg value
  | .i32 => .rsetI32 reg value
  | .f32 => .rsetF32 reg value
  | .u16 => .rsetU16 reg value
  | .i16 => .rsetI16 reg value
  | .u8 => .rsetU8 reg value
  | .i8 => .rsetI8 reg value
  | .u8h => .rsetU8H reg value
  | .i8h => .rsetI8H reg value

/-- `FGET.<flag>` (R87, R98). -/
def Instr.fget (f : Flag) : Instr :=
  match f with
  | .cf => .fgetCF
  | .pf => .fgetPF
  | .af => .fgetAF
  | .zf => .fgetZF
  | .sf => .fgetSF
  | .tf => .fgetTF
  | .ie => .fgetIF
  | .df => .fgetDF
  | .of => .fgetOF
  | .nt => .fgetNT
  | .rf => .fgetRF
  | .vm => .fgetVM
  | .ac => .fgetAC
  | .vif => .fgetVIF
  | .vip => .fgetVIP
  | .id => .fgetID
  | .ct => .fgetCT

/-- `FASSIGN.<flag> value` (R87, R98). -/
def Instr.fassign (f : Flag) (value : Word) : Instr :=
  match f with
  | .cf => .fassignCF value
  | .pf => .fassignPF value
  | .af => .fassignAF value
  | .zf => .fassignZF value
  | .sf => .fassignSF value
  | .tf => .fassignTF value
  | .ie => .fassignIF value
  | .df => .fassignDF value
  | .of => .fassignOF value
  | .nt => .fassignNT value
  | .rf => .fassignRF value
  | .vm => .fassignVM value
  | .ac => .fassignAC value
  | .vif => .fassignVIF value
  | .vip => .fassignVIP value
  | .id => .fassignID value
  | .ct => .fassignCT value

/-- `CC.<cc>` (R87, R98). -/
def Instr.cc (c : CondCode) : Instr :=
  match c with
  | .b => .ccB
  | .be => .ccBE
  | .a => .ccA
  | .ae => .ccAE
  | .l => .ccL
  | .le => .ccLE
  | .g => .ccG
  | .ge => .ccGE

end Sys2Proof
end

