-- ==== Sys2Proof/WellFormed.lean ====
section
/-! DEFINITION. Which commands a command word can name. Every operand is already as wide as its field, so the one check
left is the domain of the high-byte views: registers 0 to 3 (spec/10_state.md R24, spec/30_encoding.md R83, R92(d)). -/

namespace Sys2Proof

/-- The high-byte views exist "for the first four registers only" (R24). -/
def highReg (reg : RegIdx) : Bool := decide (reg.val < 4)

/-- Is the command inside the domain of its operation (R110), that is, can a command word name it (R92)? -/
def Instr.wellFormed : Instr → Bool
  | .rgetU8H reg | .rgetI8H reg => highReg reg
  | .rsetU8H reg _ | .rsetI8H reg _ => highReg reg
  | .rgetU64 _ | .rgetI64 _ | .rgetF64 _ | .rgetU32 _ | .rgetI32 _ | .rgetF32 _
  | .rgetU16 _ | .rgetI16 _ | .rgetU8 _ | .rgetI8 _ => true
  | .rsetU64 _ _ | .rsetI64 _ _ | .rsetF64 _ _ | .rsetU32 _ _ | .rsetI32 _ _ | .rsetF32 _ _
  | .rsetU16 _ _ | .rsetI16 _ _ | .rsetU8 _ _ | .rsetI8 _ _ => true
  | .fgetCF | .fgetPF | .fgetAF | .fgetZF | .fgetSF | .fgetTF | .fgetIF | .fgetDF | .fgetOF | .fgetNT | .fgetRF
  | .fgetVM | .fgetAC | .fgetVIF | .fgetVIP | .fgetID | .fgetCT => true
  | .fassignCF _ | .fassignPF _ | .fassignAF _ | .fassignZF _ | .fassignSF _ | .fassignTF _ | .fassignIF _
  | .fassignDF _ | .fassignOF _ | .fassignNT _ | .fassignRF _ | .fassignVM _ | .fassignAC _ | .fassignVIF _
  | .fassignVIP _ | .fassignID _ | .fassignCT _ => true
  | .ioplget | .ioplassign _ | .flagsget | .flagsset _ => true
  | .ccB | .ccBE | .ccA | .ccAE | .ccL | .ccLE | .ccG | .ccGE => true
  | .init _ | .exec _ | .stateget | .errget | .retget => true
  | .stdio | .hnew _ | .install _ _ | .fread _ _ | .fwrite _ _ | .hfeed _ _ | .hdump _ | .fdopen _ | .fdclose _ => true

end Sys2Proof
end

