-- ==== Sys2Proof/Decode.lean ====
section
/-! DEFINITION. Reading a command word (spec/30_encoding.md R82, R83, R87 to R92) and writing one. `decode` is total: a
word outside the tables is rejected by name, and the block answers every rejection `BadCommand` (R92). The payload of
`INIT` is checked by the command's own rule (R222 decodes it first), since `cmd` alone identifies a command (R94). -/

namespace Sys2Proof

/-- Why a command word is illegal (R92 a to e); all of them are answered `BadCommand` with nothing changed. -/
inductive Reject where
  /-- (a) `op` is none of the 23 opcodes -/
  | unknownOpcode
  /-- (b) `sel`, or the part of it that must be 0, is not 0 -/
  | selectorNotZero
  /-- (b) `idx`, or the part of it that must be 0, is not 0 -/
  | indexNotZero
  /-- (c) format `R` with a `sel` that is no view code -/
  | unknownView
  /-- (d) a high-byte view of a register above 3 -/
  | highByteRegister
  /-- (e) `FGET` or `FASSIGN` with an id above 16 -/
  | unknownFlag
  /-- (e) `CC` with an id above 7 -/
  | unknownCondition
  deriving DecidableEq, Repr

/-- `op`, bits 31:24 of the command word (R82). -/
def opField (cmd : BitVec 32) : BitVec 8 := cmd.extractLsb' 24 8

/-- `sel`, bits 23:16 (R82). -/
def selField (cmd : BitVec 32) : BitVec 8 := cmd.extractLsb' 16 8

/-- `idx`, bits 15:0 (R82). -/
def idxField (cmd : BitVec 32) : BitVec 16 := cmd.extractLsb' 0 16

/-- The command word of three fields (R82). -/
def packFields (op sel : BitVec 8) (idx : BitVec 16) : BitVec 32 :=
  BitVec.ofNat 32 (op.toNat * 2 ^ 24 + sel.toNat * 2 ^ 16 + idx.toNat)

/-- The view a view code names (R88). -/
def viewOfCode (sel : BitVec 8) : Option View :=
  match sel.toNat with
  | 0x00 => some .u64
  | 0x01 => some .i64
  | 0x02 => some .f64
  | 0x10 => some .u32
  | 0x11 => some .i32
  | 0x12 => some .f32
  | 0x20 => some .u16
  | 0x21 => some .i16
  | 0x30 => some .u8
  | 0x31 => some .i8
  | 0x40 => some .u8h
  | 0x41 => some .i8h
  | _ => none

/-- The view code of a view (R88). -/
def codeOfView : View → BitVec 8
  | .u64 => 0x00#8
  | .i64 => 0x01#8
  | .f64 => 0x02#8
  | .u32 => 0x10#8
  | .i32 => 0x11#8
  | .f32 => 0x12#8
  | .u16 => 0x20#8
  | .i16 => 0x21#8
  | .u8 => 0x30#8
  | .i8 => 0x31#8
  | .u8h => 0x40#8
  | .i8h => 0x41#8

/-- The flag a flag id names (R89). -/
def flagOfId (sel : BitVec 8) : Option Flag :=
  match sel.toNat with
  | 0 => some .cf
  | 1 => some .pf
  | 2 => some .af
  | 3 => some .zf
  | 4 => some .sf
  | 5 => some .tf
  | 6 => some .ie
  | 7 => some .df
  | 8 => some .of
  | 9 => some .nt
  | 10 => some .rf
  | 11 => some .vm
  | 12 => some .ac
  | 13 => some .vif
  | 14 => some .vip
  | 15 => some .id
  | 16 => some .ct
  | _ => none

/-- The id of a flag (R89); it is not the flag's bit position. -/
def idOfFlag : Flag → BitVec 8
  | .cf => 0#8
  | .pf => 1#8
  | .af => 2#8
  | .zf => 3#8
  | .sf => 4#8
  | .tf => 5#8
  | .ie => 6#8
  | .df => 7#8
  | .of => 8#8
  | .nt => 9#8
  | .rf => 10#8
  | .vm => 11#8
  | .ac => 12#8
  | .vif => 13#8
  | .vip => 14#8
  | .id => 15#8
  | .ct => 16#8

/-- The condition code a condition-code id names (R90). -/
def condOfId (sel : BitVec 8) : Option CondCode :=
  match sel.toNat with
  | 0 => some .b
  | 1 => some .be
  | 2 => some .a
  | 3 => some .ae
  | 4 => some .l
  | 5 => some .le
  | 6 => some .g
  | 7 => some .ge
  | _ => none

/-- The id of a condition code (R90). -/
def idOfCond : CondCode → BitVec 8
  | .b => 0#8
  | .be => 1#8
  | .a => 2#8
  | .ae => 3#8
  | .l => 4#8
  | .le => 5#8
  | .g => 6#8
  | .ge => 7#8

/-- Format `N` (R83): `sel` and `idx` must be 0. -/
def formatN (sel : BitVec 8) (idx : BitVec 16) (i : Instr) : Except Reject Instr :=
  if sel ≠ 0 then .error .selectorNotZero else if idx ≠ 0 then .error .indexNotZero else .ok i

/-- Format `R` (R83): a view code and a register, `idx[15:4] = 0`, registers 0 to 3 for the high-byte views. -/
def formatR (sel : BitVec 8) (idx : BitVec 16) (mk : View → RegIdx → Instr) : Except Reject Instr :=
  match viewOfCode sel with
  | none => .error .unknownView
  | some v =>
    if h : idx.toNat < 16 then
      if v.isHigh && !highReg ⟨idx.toNat, h⟩ then .error .highByteRegister else .ok (mk v ⟨idx.toNat, h⟩)
    else .error .indexNotZero

/-- Format `F` with a flag id (R83, R89): `idx` must be 0. -/
def formatFlag (sel : BitVec 8) (idx : BitVec 16) (mk : Flag → Instr) : Except Reject Instr :=
  match flagOfId sel with
  | none => .error .unknownFlag
  | some f => if idx ≠ 0 then .error .indexNotZero else .ok (mk f)

/-- Format `F` with a condition-code id (R83, R90): `idx` must be 0. -/
def formatCond (sel : BitVec 8) (idx : BitVec 16) (mk : CondCode → Instr) : Except Reject Instr :=
  match condOfId sel with
  | none => .error .unknownCondition
  | some c => if idx ≠ 0 then .error .indexNotZero else .ok (mk c)

/-- Format `K` (R83): `sel[4:0]` are the capability bits, `sel[7:5]` and `idx` must be 0. -/
def formatK (sel : BitVec 8) (idx : BitVec 16) (mk : BitVec 5 → Instr) : Except Reject Instr :=
  if sel.extractLsb' 5 3 ≠ 0 then .error .selectorNotZero
  else if idx ≠ 0 then .error .indexNotZero else .ok (mk (sel.extractLsb' 0 5))

/-- Formats `S` and `H` (R83): `idx` is a descriptor slot or a handle id, `sel` must be 0. -/
def formatIdx (sel : BitVec 8) (idx : BitVec 16) (mk : BitVec 16 → Instr) : Except Reject Instr :=
  if sel ≠ 0 then .error .selectorNotZero else .ok (mk idx)

/-- The opcode map (R87), on the fields of the command word and the two operands. -/
def decodeFields (op sel : BitVec 8) (idx : BitVec 16) (wdata : Word) (payload : List Byte) : Except Reject Instr :=
  match op.toNat with
  | 0x10 => formatR sel idx .rget
  | 0x11 => formatR sel idx (fun v reg => .rset v reg wdata)
  | 0x20 => formatFlag sel idx .fget
  | 0x21 => formatFlag sel idx (fun f => .fassign f wdata)
  | 0x22 => formatN sel idx .ioplget
  | 0x23 => formatN sel idx (.ioplassign wdata)
  | 0x24 => formatN sel idx .flagsget
  | 0x25 => formatN sel idx (.flagsset wdata)
  | 0x26 => formatCond sel idx .cc
  | 0x30 => formatN sel idx (.init payload)
  | 0x31 => formatN sel idx (.exec wdata)
  | 0x32 => formatN sel idx .stateget
  | 0x33 => formatN sel idx .errget
  | 0x34 => formatN sel idx .retget
  | 0x40 => formatN sel idx .stdio
  | 0x41 => formatK sel idx .hnew
  | 0x42 => formatIdx sel idx (fun slot => .install slot wdata)
  | 0x43 => formatIdx sel idx (fun slot => .fread slot wdata)
  | 0x44 => formatIdx sel idx (fun slot => .fwrite slot payload)
  | 0x45 => formatIdx sel idx (fun hid => .hfeed hid payload)
  | 0x46 => formatIdx sel idx .hdump
  | 0x47 => formatN sel idx (.fdopen wdata)
  | 0x48 => formatIdx sel idx .fdclose
  | _ => .error .unknownOpcode

/-- The instruction a command names, or why it names none (R92 a to e). -/
def decode (c : Command) : Except Reject Instr :=
  decodeFields (opField c.cmd) (selField c.cmd) (idxField c.cmd) c.wdata c.payload

/-- The command with a given word, `wdata` 0 and no payload, of a number whose low `nbits` bits are the word. -/
def commandOfTableWord (nbits w : Nat) : Command := { cmd := BitVec.ofNat 32 (w % 2 ^ nbits) }

/-- The instruction the decoder reads from a row's word, its operands `wdata` and `payload` being 0 and empty. -/
def decodeTableWord (nbits w : Nat) : Option Instr :=
  match decode (commandOfTableWord nbits w) with
  | .ok i => some i
  | .error _ => none

/-- The command word of format `R` (R83). -/
def wordR (op : BitVec 8) (v : View) (reg : RegIdx) : BitVec 32 :=
  packFields op (codeOfView v) (BitVec.ofNat 16 reg.val)

/-- The command word of a format with `idx = 0` (`N`, `F`, `K`; R83). -/
def wordSel (op sel : BitVec 8) : BitVec 32 := packFields op sel 0#16

/-- The command word of formats `S` and `H` (R83). -/
def wordIdx (op : BitVec 8) (idx : BitVec 16) : BitVec 32 := packFields op 0#8 idx

/-- The command that names an instruction (R82 to R91); an operand the command does not use is 0 or empty. -/
def encode (i : Instr) : Command :=
  match i with
  | .rgetU64 reg => { cmd := wordR 0x10#8 .u64 reg }
  | .rgetI64 reg => { cmd := wordR 0x10#8 .i64 reg }
  | .rgetF64 reg => { cmd := wordR 0x10#8 .f64 reg }
  | .rgetU32 reg => { cmd := wordR 0x10#8 .u32 reg }
  | .rgetI32 reg => { cmd := wordR 0x10#8 .i32 reg }
  | .rgetF32 reg => { cmd := wordR 0x10#8 .f32 reg }
  | .rgetU16 reg => { cmd := wordR 0x10#8 .u16 reg }
  | .rgetI16 reg => { cmd := wordR 0x10#8 .i16 reg }
  | .rgetU8 reg => { cmd := wordR 0x10#8 .u8 reg }
  | .rgetI8 reg => { cmd := wordR 0x10#8 .i8 reg }
  | .rgetU8H reg => { cmd := wordR 0x10#8 .u8h reg }
  | .rgetI8H reg => { cmd := wordR 0x10#8 .i8h reg }
  | .rsetU64 reg value => { cmd := wordR 0x11#8 .u64 reg, wdata := value }
  | .rsetI64 reg value => { cmd := wordR 0x11#8 .i64 reg, wdata := value }
  | .rsetF64 reg value => { cmd := wordR 0x11#8 .f64 reg, wdata := value }
  | .rsetU32 reg value => { cmd := wordR 0x11#8 .u32 reg, wdata := value }
  | .rsetI32 reg value => { cmd := wordR 0x11#8 .i32 reg, wdata := value }
  | .rsetF32 reg value => { cmd := wordR 0x11#8 .f32 reg, wdata := value }
  | .rsetU16 reg value => { cmd := wordR 0x11#8 .u16 reg, wdata := value }
  | .rsetI16 reg value => { cmd := wordR 0x11#8 .i16 reg, wdata := value }
  | .rsetU8 reg value => { cmd := wordR 0x11#8 .u8 reg, wdata := value }
  | .rsetI8 reg value => { cmd := wordR 0x11#8 .i8 reg, wdata := value }
  | .rsetU8H reg value => { cmd := wordR 0x11#8 .u8h reg, wdata := value }
  | .rsetI8H reg value => { cmd := wordR 0x11#8 .i8h reg, wdata := value }
  | .fgetCF => { cmd := wordSel 0x20#8 (idOfFlag .cf) }
  | .fgetPF => { cmd := wordSel 0x20#8 (idOfFlag .pf) }
  | .fgetAF => { cmd := wordSel 0x20#8 (idOfFlag .af) }
  | .fgetZF => { cmd := wordSel 0x20#8 (idOfFlag .zf) }
  | .fgetSF => { cmd := wordSel 0x20#8 (idOfFlag .sf) }
  | .fgetTF => { cmd := wordSel 0x20#8 (idOfFlag .tf) }
  | .fgetIF => { cmd := wordSel 0x20#8 (idOfFlag .ie) }
  | .fgetDF => { cmd := wordSel 0x20#8 (idOfFlag .df) }
  | .fgetOF => { cmd := wordSel 0x20#8 (idOfFlag .of) }
  | .fgetNT => { cmd := wordSel 0x20#8 (idOfFlag .nt) }
  | .fgetRF => { cmd := wordSel 0x20#8 (idOfFlag .rf) }
  | .fgetVM => { cmd := wordSel 0x20#8 (idOfFlag .vm) }
  | .fgetAC => { cmd := wordSel 0x20#8 (idOfFlag .ac) }
  | .fgetVIF => { cmd := wordSel 0x20#8 (idOfFlag .vif) }
  | .fgetVIP => { cmd := wordSel 0x20#8 (idOfFlag .vip) }
  | .fgetID => { cmd := wordSel 0x20#8 (idOfFlag .id) }
  | .fgetCT => { cmd := wordSel 0x20#8 (idOfFlag .ct) }
  | .fassignCF value => { cmd := wordSel 0x21#8 (idOfFlag .cf), wdata := value }
  | .fassignPF value => { cmd := wordSel 0x21#8 (idOfFlag .pf), wdata := value }
  | .fassignAF value => { cmd := wordSel 0x21#8 (idOfFlag .af), wdata := value }
  | .fassignZF value => { cmd := wordSel 0x21#8 (idOfFlag .zf), wdata := value }
  | .fassignSF value => { cmd := wordSel 0x21#8 (idOfFlag .sf), wdata := value }
  | .fassignTF value => { cmd := wordSel 0x21#8 (idOfFlag .tf), wdata := value }
  | .fassignIF value => { cmd := wordSel 0x21#8 (idOfFlag .ie), wdata := value }
  | .fassignDF value => { cmd := wordSel 0x21#8 (idOfFlag .df), wdata := value }
  | .fassignOF value => { cmd := wordSel 0x21#8 (idOfFlag .of), wdata := value }
  | .fassignNT value => { cmd := wordSel 0x21#8 (idOfFlag .nt), wdata := value }
  | .fassignRF value => { cmd := wordSel 0x21#8 (idOfFlag .rf), wdata := value }
  | .fassignVM value => { cmd := wordSel 0x21#8 (idOfFlag .vm), wdata := value }
  | .fassignAC value => { cmd := wordSel 0x21#8 (idOfFlag .ac), wdata := value }
  | .fassignVIF value => { cmd := wordSel 0x21#8 (idOfFlag .vif), wdata := value }
  | .fassignVIP value => { cmd := wordSel 0x21#8 (idOfFlag .vip), wdata := value }
  | .fassignID value => { cmd := wordSel 0x21#8 (idOfFlag .id), wdata := value }
  | .fassignCT value => { cmd := wordSel 0x21#8 (idOfFlag .ct), wdata := value }
  | .ioplget => { cmd := wordSel 0x22#8 0#8 }
  | .ioplassign value => { cmd := wordSel 0x23#8 0#8, wdata := value }
  | .flagsget => { cmd := wordSel 0x24#8 0#8 }
  | .flagsset value => { cmd := wordSel 0x25#8 0#8, wdata := value }
  | .ccB => { cmd := wordSel 0x26#8 (idOfCond .b) }
  | .ccBE => { cmd := wordSel 0x26#8 (idOfCond .be) }
  | .ccA => { cmd := wordSel 0x26#8 (idOfCond .a) }
  | .ccAE => { cmd := wordSel 0x26#8 (idOfCond .ae) }
  | .ccL => { cmd := wordSel 0x26#8 (idOfCond .l) }
  | .ccLE => { cmd := wordSel 0x26#8 (idOfCond .le) }
  | .ccG => { cmd := wordSel 0x26#8 (idOfCond .g) }
  | .ccGE => { cmd := wordSel 0x26#8 (idOfCond .ge) }
  | .init bytes => { cmd := wordSel 0x30#8 0#8, payload := bytes }
  | .exec budget => { cmd := wordSel 0x31#8 0#8, wdata := budget }
  | .stateget => { cmd := wordSel 0x32#8 0#8 }
  | .errget => { cmd := wordSel 0x33#8 0#8 }
  | .retget => { cmd := wordSel 0x34#8 0#8 }
  | .stdio => { cmd := wordSel 0x40#8 0#8 }
  | .hnew caps => { cmd := wordSel 0x41#8 (caps.setWidth 8) }
  | .install slot handle => { cmd := wordIdx 0x42#8 slot, wdata := handle }
  | .fread slot count => { cmd := wordIdx 0x43#8 slot, wdata := count }
  | .fwrite slot bytes => { cmd := wordIdx 0x44#8 slot, payload := bytes }
  | .hfeed hid bytes => { cmd := wordIdx 0x45#8 hid, payload := bytes }
  | .hdump hid => { cmd := wordIdx 0x46#8 hid }
  | .fdopen handle => { cmd := wordSel 0x47#8 0#8, wdata := handle }
  | .fdclose slot => { cmd := wordIdx 0x48#8 slot }

end Sys2Proof
end

