-- ==== Sys2Proof/Machine/Data.lean ====
section
/-! DEFINITION. The plain data of the block (spec/10_state.md, spec/60_exceptions.md R300, spec/30_encoding.md R81, R86,
R91), the program-visible state the instruction unit is given (spec/42_execution.md R220), and the two collaborators'
types: the instruction unit's program for one cycle and the loader's operands and result (R233). -/

namespace Sys2Proof.Machine

/-- The sixteen general registers (R21). -/
abbrev Regs := Vector Word 16

/-- The memory image (R36): `size` is `mem_size`; `cells` lists the bytes that are not 0, by address. -/
structure Memory where
  size : Nat
  cells : List Host.Cell
  deriving DecidableEq, Repr, Inhabited

/-- A `Live` file handle (R38): buffer, 64-bit cursor, four capability flags and the `interactive` flag. -/
structure Handle where
  buf : List Byte
  pos : Word
  readable : Bool
  writable : Bool
  seekable : Bool
  appendonly : Bool
  interactive : Bool
  deriving DecidableEq, Repr, Inhabited

/-- A fault kind (R300): the three the source names and the 252 the instruction unit owns. Code 0 is never a fault. -/
inductive FaultKind where
  /-- code 1: an access of the program outside `[0, mem_size)` -/
  | invalidMemoryAccess
  /-- code 2: the instruction unit does not decode or allow the bytes at `pc` -/
  | illegalInstruction
  /-- code 3: the instruction unit's arithmetic fault -/
  | arithmeticFault
  /-- codes 4 to 255: `4 + n`, owned by the instruction unit -/
  | unitKind (n : Fin 252)
  deriving DecidableEq, Repr, Inhabited

/-- The execution state (R33); a return code is a signed 32-bit integer. -/
inductive XState where
  | uninitialized
  | running
  | terminated (returnCode : BitVec 32)
  | error (fault : FaultKind)
  deriving DecidableEq, Repr, Inhabited

/-- Why `EXEC` returned (R34, R223). -/
inductive StopReason where
  | notRunning
  | maxCycles
  | forfeitTimeslot
  | terminated
  | error
  deriving DecidableEq, Repr, Inhabited

/-- The outcome of one cycle (R220). -/
inductive CycleOutcome where
  | goOn
  | forfeit
  | exit (returnCode : BitVec 32)
  | fault (kind : FaultKind)
  deriving DecidableEq, Repr, Inhabited

/-- The status of a response (R86). -/
inductive Status where
  | ok
  | badCommand
  | outOfBounds
  | initError
  | badState
  | badSlot
  | permissionDenied
  | badHandle
  | noHandle
  | tableFull
  deriving DecidableEq, Repr, Inhabited

/-- A response (R81); a field a command does not set is 0 or empty. -/
structure Response where
  status : Status := .ok
  rdata : Word := 0
  rtag : BitVec 8 := 0
  rpayload : List Byte := []
  deriving DecidableEq, Repr, Inhabited

/-- What the host presents: a command on port HC, a command on port HS (R80), or the reset event (R330). -/
inductive HostInput where
  | hc (c : Command)
  | hs (c : Command)
  | reset
  deriving DecidableEq, Repr, Inhabited

/-- What the block answers to the host, with the port it answers on (R80, R81). -/
inductive HostOutput where
  | hc (r : Response)
  | hs (r : Response)
  deriving DecidableEq, Repr, Inhabited

/-- An occupied descriptor slot as the instruction unit knows it: the handle id it holds (R37) and that handle's flags,
which are fixed when the handle is created (R39); `interactive` is information for the instruction unit (R276). Neither
the buffer nor the cursor is known: they are reached through `FREAD` and `FWRITE` (R221; log 18). -/
structure SlotView where
  slot : Nat
  handle : Nat
  readable : Bool
  writable : Bool
  seekable : Bool
  appendonly : Bool
  interactive : Bool
  deriving DecidableEq, Repr, Inhabited

/-- What the instruction unit is given of the program-visible state `S = (x, flags, pc, mem, fd, hp)` of R220. Of `fd` and
`hp` these are the occupied slots, in rising order: `fd_cap` is not seen (R220), nor is a handle that stands in no slot,
nor what a handle holds (R221; log 18). -/
structure ProgState where
  regs : Regs
  flags : Word
  pc : Word
  mem : Memory
  slots : List SlotView
  deriving DecidableEq, Repr, Inhabited

/-- The widths of `MemRead` and `MemWrite` (R62): 1, 2, 4, 8 bytes. -/
inductive AccessWidth where
  | b1
  | b2
  | b4
  | b8
  deriving DecidableEq, Repr, Inhabited

/-- What the instruction unit does in one cycle (R220, R221): accesses on port IU (R99), each continued on what it
returned, ended by an outcome. Every path is finite: a call of `InsnStep` is assumed to return (R237). -/
inductive UnitProgram where
  /-- the cycle ends -/
  | done (out : CycleOutcome)
  /-- a command on port IU; the response goes to the instruction unit (R100) -/
  | command (c : Command) (next : Response → UnitProgram)
  /-- `MemRead(addr, n)`; `none` when the access does not happen (R62) -/
  | memRead (addr : Word) (n : AccessWidth) (next : Option Word → UnitProgram)
  /-- `MemWrite(addr, n, v)`; `false` when the access does not happen (R62) -/
  | memWrite (addr : Word) (n : AccessWidth) (v : Word) (next : Bool → UnitProgram)
  /-- read `pc` (R32) -/
  | readPc (next : Word → UnitProgram)
  /-- write `pc` (R32) -/
  | writePc (v : Word) (next : UnitProgram)
  /-- grow `mem` by the given bytes (R61); `false` when `max_memory` forbids it -/
  | memGrow (bytes : List Byte) (next : Bool → UnitProgram)
  /-- shrink `mem` to `size` bytes (R61); no effect when `mem` is not larger -/
  | memShrink (size : Nat) (next : UnitProgram)
  deriving Inhabited

/-- The operands of the loader (R233). -/
structure LoadOperands where
  exe : List Byte
  maxMemory : Word
  stackSize : Word
  maxFiles : Word
  args : List (List Byte)
  deriving DecidableEq, Repr, Inhabited

/-- What the loader returns on `Ok(X, F, P, M)` (R233). -/
structure LoadResult where
  regs : Regs
  flags : Word
  pc : Word
  image : List Byte
  deriving DecidableEq, Repr, Inhabited

/-- The state a reset leaves unspecified (R43, R44): a draw. -/
structure ResetDraw where
  regs : Regs
  flags : Word
  pc : Word
  maxMemory : Word
  stackSize : Word
  deriving DecidableEq, Repr, Inhabited

/-- The configuration of a run (R5, R10): what the block is parameterised by and never changes. `hostCommands` says how
many waiting commands of port HS are served at each of the points where R71 lets them fall. -/
structure Env where
  /-- `InsnStep` (R220): the program of one cycle, from what it sees of the program-visible state and a draw (it may be
  non-deterministic) -/
  insnStep : ProgState → Nat → UnitProgram
  /-- `Load` (R233); `none` is `Err` -/
  load : LoadOperands → Option LoadResult
  /-- `DEFAULT_MAX_MEMORY` -/
  maxMemory : Word
  /-- `DEFAULT_STACK_SIZE` -/
  stackSize : Word
  /-- `DEFAULT_MAX_FILES` -/
  maxFiles : Word
  /-- `DEFAULT_ARGS` -/
  args : List (List Byte)
  /-- `N_HANDLES` -/
  nHandles : Nat
  /-- the interleaving of port HS with an `EXEC` in progress (R71), from a draw -/
  hostCommands : Nat → Nat

end Sys2Proof.Machine
end

