-- ==== Sys2Proof/Machine/Operands.lean ====
section
/-! DEFINITION. Operand forms: bit fields of a 64-bit word, the twelve views of a register (spec/10_state.md R22, R25), the
parts of `wdata` a command uses (spec/30_encoding.md R84), the codes the block returns (R85, R86, R91), the capability
bits of `HNEW` and the operand block of `INIT` (R95, R96). -/

namespace Sys2Proof.Machine

/-- The word with ones in bits `lo .. lo+width-1` and zeros elsewhere. -/
def fieldMask (lo width : Nat) : Word := (BitVec.allOnes width).setWidth 64 <<< lo

/-- `old[lo+width-1:lo] <- v[width-1:0]`, every other bit of `old` kept (R7). -/
def replaceField (lo width : Nat) (old v : Word) : Word :=
  (old &&& ~~~(fieldMask lo width)) ||| ((v <<< lo) &&& fieldMask lo width)

/-- The lowest bit of a view's range (R22). -/
def viewLow : View → Nat
  | .u64 => 0
  | .i64 => 0
  | .f64 => 0
  | .u32 => 0
  | .i32 => 0
  | .f32 => 0
  | .u16 => 0
  | .i16 => 0
  | .u8 => 0
  | .i8 => 0
  | .u8h => 8
  | .i8h => 8

/-- The width of a view (R22). -/
def viewWidth : View → Nat
  | .u64 => 64
  | .i64 => 64
  | .f64 => 64
  | .u32 => 32
  | .i32 => 32
  | .f32 => 32
  | .u16 => 16
  | .i16 => 16
  | .u8 => 8
  | .i8 => 8
  | .u8h => 8
  | .i8h => 8

/-- Is the view read as a signed number (R22)? Float views are read as their bits (R138). -/
def viewSigned : View → Bool
  | .u64 => false
  | .i64 => true
  | .f64 => false
  | .u32 => false
  | .i32 => true
  | .f32 => false
  | .u16 => false
  | .i16 => true
  | .u8 => false
  | .i8 => true
  | .u8h => false
  | .i8h => true

/-- `ext_64(x[hi:lo])`: the view of a register value as `rdata` carries it (R85, R111). -/
def viewRead (v : View) (x : Word) : Word :=
  if viewSigned v then (x.extractLsb' (viewLow v) (viewWidth v)).signExtend 64
  else (x.extractLsb' (viewLow v) (viewWidth v)).setWidth 64

/-- `x[hi:lo] <- value[w-1:0]`: a write through a view merges (R25, R112). -/
def viewWrite (v : View) (x value : Word) : Word := replaceField (viewLow v) (viewWidth v) x value

/-- The bit a flag assignment uses, `wdata[0]` (R84, R151). -/
def bitOperand (wdata : Word) : Bool := wdata.getLsbD 0

/-- The value `IOPLASSIGN` uses, `wdata[7:0]` (R84, R187). -/
def ioplOperand (wdata : Word) : BitVec 8 := wdata.extractLsb' 0 8

/-- The handle id `INSTALL` and `FDOPEN` use, `wdata[15:0]` (R84). -/
def handleOperand (wdata : Word) : Nat := (wdata.extractLsb' 0 16).toNat

/-- One bit as `rdata` carries it (R85). -/
def bitData (b : Bool) : Word := (BitVec.ofBool b).setWidth 64

/-- A count or an index as `rdata` carries it (R85). -/
def countData (n : Nat) : Word := BitVec.ofNat 64 n

/-- The status codes (R86). -/
def statusCode : Status → BitVec 8
  | .ok => 0
  | .badCommand => 1
  | .outOfBounds => 2
  | .initError => 3
  | .badState => 4
  | .badSlot => 5
  | .permissionDenied => 6
  | .badHandle => 7
  | .noHandle => 8
  | .tableFull => 9

/-- The execution-state codes (R91). -/
def xstateCode : XState → BitVec 8
  | .uninitialized => 0
  | .running => 1
  | .terminated _ => 2
  | .error _ => 3

/-- The stop-reason codes (R91). -/
def stopCode : StopReason → BitVec 8
  | .notRunning => 0
  | .maxCycles => 1
  | .forfeitTimeslot => 2
  | .terminated => 3
  | .error => 4

/-- The fault-kind codes (R91, R300): 1..255, never 0. -/
def faultCode : FaultKind → BitVec 8
  | .invalidMemoryAccess => 1
  | .illegalInstruction => 2
  | .arithmeticFault => 3
  | .unitKind n => BitVec.ofNat 8 (4 + n.val)

/-- The new handle of `HNEW caps` (R263): empty buffer, `pos = 0`, the capability bits of R91. -/
def newHandle (caps : BitVec 5) : Handle where
  buf := []
  pos := 0
  readable := caps.getLsbD 0
  writable := caps.getLsbD 1
  seekable := caps.getLsbD 2
  appendonly := caps.getLsbD 3
  interactive := caps.getLsbD 4

/-- A little-endian byte string as a number (R63, R96). -/
def leValue : List Byte → Nat
  | [] => 0
  | b :: rest => b.toNat + 256 * leValue rest

/-- The low `n` bytes of a word, least significant first (R63). -/
def leBytes : Nat → Word → List Byte
  | 0, _ => []
  | n + 1, v => v.setWidth 8 :: leBytes n (v >>> 8)

/-- Bytes per access (R62). -/
def accessBytes : AccessWidth → Nat
  | .b1 => 1
  | .b2 => 2
  | .b4 => 4
  | .b8 => 8

/-- The operands of `INIT` (R95): an absent one is `none`. -/
structure InitOperands where
  maxMemory : Option Word
  stackSize : Option Word
  maxFiles : Option Word
  args : Option (List (List Byte))
  exe : List Byte
  deriving DecidableEq, Repr

/-- `argc` argument records (R96): a 32-bit length and that many bytes each. Answers the arguments and what follows
them, or `none` when a record runs past the end of the payload. -/
def argRecords : Nat → List Byte → Option (List (List Byte) × List Byte)
  | 0, p => some ([], p)
  | argc + 1, p =>
    if p.length < 4 then none
    else if (p.drop 4).length < leValue (p.take 4) then none
    else
      match argRecords argc ((p.drop 4).drop (leValue (p.take 4))) with
      | none => none
      | some (args, rest) => some ((p.drop 4).take (leValue (p.take 4)) :: args, rest)

/-- The 64-bit field of the `INIT` payload at `offset`, when its presence bit is set (R96). -/
def limitField (present : Bool) (p : List Byte) (offset : Nat) : Option Word :=
  if present then some (BitVec.ofNat 64 (leValue ((p.drop offset).take 8))) else none

/-- Reading the `INIT` payload (R96); `none` when it is malformed. -/
def initOperands (p : List Byte) : Option InitOperands :=
  let pm : Byte := p.headD 0
  let argc := leValue ((p.drop 25).take 4)
  if p.length < 29 then none
  else if pm.extractLsb' 4 4 ≠ 0 then none
  else if pm.getLsbD 3 = false ∧ argc ≠ 0 then none
  else
    match argRecords argc (p.drop 29) with
    | none => none
    | some (args, exe) =>
      some {
        maxMemory := limitField (pm.getLsbD 0) p 1
        stackSize := limitField (pm.getLsbD 1) p 9
        maxFiles := limitField (pm.getLsbD 2) p 17
        args := if pm.getLsbD 3 then some args else none
        exe := exe }

/-- A number as `n` bytes, least significant first. -/
def leNumber : Nat → Nat → List Byte
  | 0, _ => []
  | n + 1, v => BitVec.ofNat 8 v :: leNumber n (v / 256)

/-- One argument record (R96). -/
def argRecord (arg : List Byte) : List Byte := leNumber 4 arg.length ++ arg

/-- The `INIT` payload that carries the operands (R96); the field of an absent limit is 0. -/
def initPayload (ops : InitOperands) : List Byte :=
  let presence : BitVec 4 :=
    BitVec.ofBool ops.args.isSome ++ BitVec.ofBool ops.maxFiles.isSome ++
      BitVec.ofBool ops.stackSize.isSome ++ BitVec.ofBool ops.maxMemory.isSome
  presence.setWidth 8 ::
    (leNumber 8 (ops.maxMemory.getD 0).toNat ++ leNumber 8 (ops.stackSize.getD 0).toNat ++
      leNumber 8 (ops.maxFiles.getD 0).toNat ++ leNumber 4 (ops.args.getD []).length ++
      (ops.args.getD []).flatMap argRecord ++ ops.exe)

end Sys2Proof.Machine
end

