-- ==== Sys2Proof/Machine/Flags.lean ====
section
/-! DEFINITION. The flags word (spec/10_state.md R26 to R30) and the condition codes (spec/41_flags.md R192 to R203). -/

namespace Sys2Proof.Machine

/-- `FLAG_BIT`: the bit of the flags word of each named flag, at the default positions of R27 (log 8). -/
def flagBit : Flag → Nat
  | .cf => 0
  | .pf => 2
  | .af => 4
  | .zf => 6
  | .sf => 7
  | .tf => 8
  | .ie => 9
  | .df => 10
  | .of => 11
  | .nt => 14
  | .rf => 16
  | .vm => 17
  | .ac => 18
  | .vif => 19
  | .vip => 20
  | .id => 21
  | .ct => 32

/-- The low bit of the IOPL field, which is bits 13:12 by default (R27). -/
def ioplLow : Nat := 12

/-- `flags[FLAG_BIT(f)]` (R151). -/
def flagGet (f : Flag) (flags : Word) : Bool := flags.getLsbD (flagBit f)

/-- `flags[FLAG_BIT(f)] <- b`, the other 63 bits kept (R151). -/
def flagPut (f : Flag) (b : Bool) (flags : Word) : Word := replaceField (flagBit f) 1 flags (bitData b)

/-- The I/O-privilege-level field (R186). -/
def ioplGet (flags : Word) : BitVec 2 := flags.extractLsb' ioplLow 2

/-- The IOPL field replaced, the other 62 bits kept (R187). -/
def ioplPut (level : Word) (flags : Word) : Word := replaceField ioplLow 2 flags level

/-- A condition code, recomputed from the stored flags at each read (R30, R192, R196 to R203). -/
def condition (c : CondCode) (flags : Word) : Bool :=
  let cf := flagGet .cf flags
  let zf := flagGet .zf flags
  let less := flagGet .sf flags ^^ flagGet .of flags
  match c with
  | .b => cf
  | .be => cf || zf
  | .a => !(cf || zf)
  | .ae => !cf
  | .l => less
  | .le => less || zf
  | .g => !(less || zf)
  | .ge => !less

end Sys2Proof.Machine
end

