-- ==== Sys2Proof/Config.lean ====
section
/-! DEFINITION. The configuration of a run (spec/00_scope.md R5, R10): every parameter the spec leaves `OPEN` is a constant
with no body, so that nothing can be proved of its value. `FLAG_BIT` has decided default positions (R27) and stands in
Machine/Flags.lean. -/

namespace Sys2Proof.Config

open Sys2Proof.Machine

/-- `InsnStep` (R5, R220). Log 5. -/
opaque insnStep : ProgState → Nat → UnitProgram

/-- `Load` (R5, R233). Log 6. -/
opaque load : LoadOperands → Option LoadResult

/-- `DEFAULT_MAX_MEMORY` (R5). Log 7. -/
opaque defaultMaxMemory : Word

/-- `DEFAULT_STACK_SIZE` (R5). Log 7. -/
opaque defaultStackSize : Word

/-- The free value behind `DEFAULT_MAX_FILES`. Log 7. -/
opaque maxFilesDraw : Nat

/-- `DEFAULT_MAX_FILES`, constrained to 0..65536 (R5). -/
def defaultMaxFiles : Word := BitVec.ofNat 64 (maxFilesDraw % 65537)

/-- `DEFAULT_ARGS` (R5). Log 7. -/
opaque defaultArgs : List (List Byte)

/-- The free value behind `N_HANDLES`. Log 4. -/
opaque poolDraw : Nat

/-- `N_HANDLES`, in 3..65536 (R5). Log 4. -/
def nHandles : Nat := poolDraw % 65534 + 3

/-- How many waiting commands of port HS are served at the point a draw numbers (R71). Log 9. -/
opaque hostCommands : Nat → Nat

/-- What a reset event leaves in the state R44 calls unspecified, for each draw. Log 12. -/
opaque resetDraw : Nat → ResetDraw

/-- The configuration the block runs in (R10). -/
def env : Env where
  insnStep := insnStep
  load := load
  maxMemory := defaultMaxMemory
  stackSize := defaultStackSize
  maxFiles := defaultMaxFiles
  args := defaultArgs
  nHandles := nHandles
  hostCommands := hostCommands

end Sys2Proof.Config
end

