-- ==== Sys2Proof/Machine/State.lean ====
section
/-! DEFINITION. The state of the block (spec/10_state.md R20 to R39) as plain data, the reasons a step can stop, and the
state after reset (R43, R44). -/

namespace Sys2Proof.Machine

/-- The state tuple of R20, and the model's own fields `inputs`, `outputs`, `resp` and `draws` (INVENTORY.md, State).
`fd_cap` is the length of `fd`. -/
structure State where
  /-- `x[0..15]` (R21) -/
  regs : Regs
  /-- the flags word (R26) -/
  flags : Word
  /-- the program counter (R32) -/
  pc : Word
  /-- the execution state (R33) -/
  xstate : XState
  /-- the latch a failed `INIT` sets (R35) -/
  initFailed : Bool
  /-- the memory image and `mem_size` (R36) -/
  mem : Memory
  /-- `max_memory`, latched by `INIT` (R36) -/
  maxMemory : Word
  /-- `stack_size`, latched by `INIT` (R36) -/
  stackSize : Word
  /-- the descriptor table (R37): entry `s` is `fd[s]`, `none` for `None` -/
  fd : List (Option Nat)
  /-- the handle pool (R38): the `Live` entries `hp[0]`, `hp[1]`, …; every id from the length on is `Free` (log 4) -/
  hp : List Handle
  /-- model's own: what the host has presented and the block has not served, oldest first -/
  inputs : List HostInput
  /-- model's own: what the block has answered to the host, oldest first -/
  outputs : List HostOutput
  /-- model's own: the response of the command last performed (R81) -/
  resp : Response
  /-- model's own: how many free values have been drawn -/
  draws : Nat
  deriving DecidableEq, Repr

/-- The reasons the machine could stop with a fault: there are none. No command faults, a runtime fault of the emulated
program is captured into `xstate` (R303, R304), and every error is a status of a response (R301). -/
inductive Fault where
  deriving DecidableEq, Repr

/-- The reasons an instruction could be refused. -/
inductive Refusal where
  /-- Raised by no arm: every command of the table has its meaning. It would be safe. -/
  | notModelled (mnemonic : String)
  deriving DecidableEq, Repr

/-- The three outcomes of a meaning; every meaning of this block answers `next`. -/
abbrev Answer := Host.Outcome State Fault Refusal

/-- `fd_cap` (R37). -/
def State.fdCap (s : State) : Nat := s.fd.length

/-- The state after reset (R43, R44, R331), for any draw of what reset leaves unspecified. -/
def State.afterReset (d : ResetDraw) : State where
  regs := d.regs
  flags := d.flags
  pc := d.pc
  xstate := .uninitialized
  initFailed := false
  mem := { size := 0, cells := [] }
  maxMemory := d.maxMemory
  stackSize := d.stackSize
  fd := []
  hp := []
  inputs := []
  outputs := []
  resp := {}
  draws := 0

/-- The machine right after reset. What R44 leaves unspecified is 0 here (logs 1, 2, 3); no statement rests on that. -/
def State.reset : State :=
  State.afterReset { regs := Vector.replicate 16 0, flags := 0, pc := 0, maxMemory := 0, stackSize := 0 }

end Sys2Proof.Machine
end

