-- ==== Sys2Proof/Machine/Ops.lean ====
section
/-! DEFINITION. The named operations over the state: the response, registers, flags, the memory image, handles and
descriptor slots, the capture of a fault, and reset. Every meaning is written over these. -/

namespace Sys2Proof.Machine

/-! ### Responses -/

/-- The block's answer to the command being performed (R81). -/
def State.answer (r : Response) (s : State) : State := { s with resp := r }

/-- A response that reports an error and nothing else (R81, R86). -/
def errorResponse (st : Status) : Response := { status := st }

/-- A response `OK` with `rdata` (R81). -/
def okData (v : Word) : Response := { rdata := v }

/-- A response `OK` with `rtag` and `rdata` (R81). -/
def okTag (tag : BitVec 8) (v : Word) : Response := { rtag := tag, rdata := v }

/-- The answer to an illegal command word, or to a command on a port that may not issue it (R92, R99). -/
def State.rejectCommand (s : State) : State := s.answer (errorResponse .badCommand)

/-! ### Registers and flags -/

/-- `x[reg]` (R21). -/
def State.reg (s : State) (reg : RegIdx) : Word := s.regs[reg]

/-- `x[reg] <- v` (R21): no register is hardwired. -/
def State.setReg (reg : RegIdx) (v : Word) (s : State) : State := { s with regs := s.regs.set reg v }

/-- `RGET.<view> reg` (R111). -/
def viewGet (v : View) (reg : RegIdx) (s : State) : State := s.answer (okData (viewRead v (s.reg reg)))

/-- `RSET.<view> reg, value` (R112). -/
def viewSet (v : View) (reg : RegIdx) (value : Word) (s : State) : State :=
  (s.setReg reg (viewWrite v (s.reg reg) value)).answer {}

/-- `FGET.<flag>` (R151). -/
def flagRead (f : Flag) (s : State) : State := s.answer (okData (bitData (flagGet f s.flags)))

/-- `flags <- v`. -/
def State.setFlags (v : Word) (s : State) : State := { s with flags := v }

/-- `FASSIGN.<flag> value` (R151). -/
def flagAssign (f : Flag) (value : Word) (s : State) : State :=
  (s.setFlags (flagPut f (bitOperand value) s.flags)).answer {}

/-- `CC.<cc>` (R192). -/
def conditionRead (c : CondCode) (s : State) : State := s.answer (okData (bitData (condition c s.flags)))

/-! ### The memory image -/

/-- The byte a cell list holds at `a`; an unlisted address reads 0 (log 13). -/
def cellByte : List Host.Cell → Nat → Byte
  | [], _ => 0
  | (k, b) :: rest, a => if k = a then b else cellByte rest a

/-- The byte of the image at `a`, for `a < mem_size`. -/
def Memory.byte (m : Memory) (a : Nat) : Byte := cellByte m.cells a

/-- The cell list with byte `b` at `a`: sorted by address, a zero byte not listed. -/
def putCell : List Host.Cell → Nat → Byte → List Host.Cell
  | [], a, b => if b = 0 then [] else [(a, b)]
  | (k, c) :: rest, a, b =>
    if a < k then (if b = 0 then (k, c) :: rest else (a, b) :: (k, c) :: rest)
    else if a = k then (if b = 0 then rest else (a, b) :: rest)
    else (k, c) :: putCell rest a b

/-- The cell list with the bytes stored from address `a` up. -/
def putBytes : List Host.Cell → Nat → List Byte → List Host.Cell
  | cells, _, [] => cells
  | cells, a, b :: rest => putBytes (putCell cells a b) (a + 1) rest

/-- The cells of a byte string that lies from address `a` up: the bytes that are not 0. -/
def cellsAt : Nat → List Byte → List Host.Cell
  | _, [] => []
  | a, b :: rest => if b = 0 then cellsAt (a + 1) rest else (a, b) :: cellsAt (a + 1) rest

/-- Addresses rise strictly from `lo` up to below `hi` and no listed byte is 0. -/
def cellsOk (lo hi : Nat) : List Host.Cell → Bool
  | [] => true
  | (a, b) :: rest => decide (lo ≤ a) && decide (a < hi) && decide (b ≠ 0) && cellsOk (a + 1) hi rest

/-- The canonical form of an image: equal images are equal data (log 13). -/
def Memory.wf (m : Memory) : Bool := cellsOk 0 m.size m.cells

/-- The image of a byte string: byte `i` at address `i`. -/
def imageOf (bytes : List Byte) : Memory := { size := bytes.length, cells := cellsAt 0 bytes }

/-- `n` bytes of the image from `a` up. -/
def Memory.bytesFrom (m : Memory) : Nat → Nat → List Byte
  | _, 0 => []
  | a, n + 1 => m.byte a :: m.bytesFrom (a + 1) n

/-- Does the access `[addr, addr+n)` lie inside `[0, mem_size)`, computed without wrap-around (R62)? -/
def Memory.holds (m : Memory) (addr : Word) (n : AccessWidth) : Bool :=
  decide (addr.toNat + accessBytes n ≤ m.size)

/-- `MemRead(addr, n)`, little-endian, of any alignment (R62 to R64). -/
def Memory.read (m : Memory) (addr : Word) (n : AccessWidth) : Option Word :=
  if m.holds addr n then some (BitVec.ofNat 64 (leValue (m.bytesFrom addr.toNat (accessBytes n)))) else none

/-- `MemWrite(addr, n, v)`, little-endian, of any alignment (R62 to R64). -/
def Memory.write (m : Memory) (addr : Word) (n : AccessWidth) (v : Word) : Option Memory :=
  if m.holds addr n then some { m with cells := putBytes m.cells addr.toNat (leBytes (accessBytes n) v) } else none

/-- The image with `bytes` added at its end (R61). -/
def Memory.grow (m : Memory) (bytes : List Byte) : Memory :=
  { size := m.size + bytes.length, cells := m.cells ++ cellsAt m.size bytes }

/-- The image cut to its first `size` bytes (R61). -/
def Memory.shrink (m : Memory) (size : Nat) : Memory :=
  { size := min size m.size, cells := m.cells.filter (fun c => decide (c.1 < size)) }

/-! ### Handles and descriptor slots -/

/-- The entry `hp[h]` when it is `Live` (R38). -/
def State.handle? (s : State) (h : Nat) : Option Handle := s.hp[h]?

/-- `hp[h] <- hd`. -/
def State.setHandle (h : Nat) (hd : Handle) (s : State) : State := { s with hp := s.hp.set h hd }

/-- Creates a handle at the lowest `Free` id, when one of `n` entries is `Free` (R263). Entries are `Live` from id 0 up
without a gap and stay so (R38), so the lowest `Free` id is the number of `Live` entries (log 4). -/
def newEntry (n : Nat) (hd : Handle) (hp : List Handle) : Option (Nat × List Handle) :=
  if hp.length < n then some (hp.length, hp ++ [hd]) else none

/-- The id in `fd[slot]` and its entry, when `slot < fd_cap` and the slot is not `None` (R266, R267; log 17). -/
def State.slotHandle? (s : State) (slot : Nat) : Option (Nat × Handle) :=
  match s.fd[slot]? with
  | some (some h) =>
    match s.hp[h]? with
    | some hd => some (h, hd)
    | none => none
  | some none => none
  | none => none

/-- `fd[slot] <- entry` for a slot of the table. -/
def State.setSlot (slot : Nat) (entry : Option Nat) (s : State) : State := { s with fd := s.fd.set slot entry }

/-- The least slot that is `None` (R271). -/
def State.emptySlot? (s : State) : Option Nat := s.fd.findIdx? Option.isNone

/-- How many bytes `FREAD` of at most `n` takes: what is left from the cursor, at most (R266). -/
def readCount (n : Word) (hd : Handle) : Nat := min n.toNat (hd.buf.length - hd.pos.toNat)

/-- The bytes `FREAD` returns (R266). -/
def readData (n : Word) (hd : Handle) : List Byte := (hd.buf.drop hd.pos.toNat).take (readCount n hd)

/-- The handle after `FREAD`: the cursor moves over what was read, the buffer stays (R265, R266). -/
def readAdvance (n : Word) (hd : Handle) : Handle := { hd with pos := hd.pos + countData (readCount n hd) }

/-- The handle after `FWRITE` (R265, R267): append-only handles grow at the end, whatever the cursor; other handles are
overwritten from the cursor on and grow when the bytes run past the end. -/
def writeThrough (bytes : List Byte) (hd : Handle) : Handle :=
  if hd.appendonly then
    { hd with buf := hd.buf ++ bytes, pos := countData (hd.buf ++ bytes).length }
  else
    { hd with
      buf := hd.buf.take hd.pos.toNat ++ bytes ++ hd.buf.drop (min (hd.pos.toNat + bytes.length) hd.buf.length)
      pos := hd.pos + countData bytes.length }

/-- The handle after `HFEED` (R269): the bytes at the end, the cursor where it was. -/
def feed (bytes : List Byte) (hd : Handle) : Handle := { hd with buf := hd.buf ++ bytes }

/-! ### Capture of a fault, exit, reset -/

/-- TAKING A FAULT (R304): the state the cycle returned is kept and `xstate <- Error(k)`. Nothing else is saved: no
vector, no saved pc, no mode (R304). There is no return from it: `Error` is sticky and only reset leaves it (R307). -/
def State.captureFault (k : FaultKind) (s : State) : State := { s with xstate := .error k }

/-- A normal exit (R223, R235): `xstate <- Terminated(rc)`. -/
def State.exitProgram (rc : BitVec 32) (s : State) : State := { s with xstate := .terminated rc }

/-- Reset (R330 to R332): everything is destroyed. What has been answered and what still waits is the host's; the state
R44 leaves unspecified is a free draw (log 12). -/
def State.resetEvent (waiting : List HostInput) (s : State) : State :=
  { State.afterReset (Config.resetDraw s.draws) with
    inputs := waiting
    outputs := s.outputs
    draws := s.draws + 1 }

end Sys2Proof.Machine
end

