-- ==== Sys2Proof/Machine/FileTable.lean ====
section
/-! DEFINITION. The file handle table commands (spec/43_file_table.md R260 to R280), one definition per command. They touch no
register, flag, `pc`, `mem` or `xstate`, and depend on no execution state (R260). -/

namespace Sys2Proof.Machine

/-- `STDIO` with a pool of `n` entries (R262): standard input, output and error created and installed in slots 0, 1, 2, all
or nothing. -/
def stdioIn (n : Nat) (s : State) : State :=
  if s.fdCap < 3 then s.answer (errorResponse .badSlot)
  else
    match newEntry n (newHandle 0b10001#5) s.hp with
    | none => s.answer (errorResponse .noHandle)
    | some (a, hp1) =>
      match newEntry n (newHandle 0b01010#5) hp1 with
      | none => s.answer (errorResponse .noHandle)
      | some (b, hp2) =>
        match newEntry n (newHandle 0b01010#5) hp2 with
        | none => s.answer (errorResponse .noHandle)
        | some (c, hp3) =>
          { s with hp := hp3, fd := ((s.fd.set 0 (some a)).set 1 (some b)).set 2 (some c) }.answer
            (okData (0#16 ++ BitVec.ofNat 16 c ++ BitVec.ofNat 16 b ++ BitVec.ofNat 16 a))

/-- `HNEW caps` with a pool of `n` entries (R263). -/
def hnewIn (n : Nat) (caps : BitVec 5) (s : State) : State :=
  match newEntry n (newHandle caps) s.hp with
  | none => s.answer (errorResponse .noHandle)
  | some (h, hp1) => { s with hp := hp1 }.answer (okData (countData h))

/-- `STDIO` (R262). -/
def stdio (s : State) : State := stdioIn Config.env.nHandles s

/-- The meaning of `stdio`: it always completes. -/
def execStdio (s : State) : Answer := .next (stdio s)

/-- `HNEW caps` (R263): a new handle at the lowest `Free` id. -/
def hnew (caps : BitVec 5) (s : State) : State := hnewIn Config.env.nHandles caps s

/-- The meaning of `hnew`: it always completes. -/
def execHnew (caps : BitVec 5) (s : State) : Answer := .next (hnew caps s)

/-- `INSTALL slot, handle` (R264): the slot is replaced whatever it held. -/
def install (slot : BitVec 16) (handle : Word) (s : State) : State :=
  if s.fdCap ≤ slot.toNat then s.answer (errorResponse .badSlot)
  else
    match s.handle? (handleOperand handle) with
    | none => s.answer (errorResponse .badHandle)
    | some _ => (s.setSlot slot.toNat (some (handleOperand handle))).answer {}

/-- The meaning of `install`: it always completes. -/
def execInstall (slot : BitVec 16) (handle : Word) (s : State) : Answer := .next (install slot handle s)

/-- `FREAD slot, count` (R266): at most `count` bytes from the cursor of the slot's handle; a short read is no error. -/
def fread (slot : BitVec 16) (count : Word) (s : State) : State :=
  match s.slotHandle? slot.toNat with
  | none => s.answer (errorResponse .badSlot)
  | some (h, hd) =>
    if hd.readable then
      (s.setHandle h (readAdvance count hd)).answer
        { rdata := countData (readCount count hd), rpayload := readData count hd }
    else s.answer (errorResponse .permissionDenied)

/-- The meaning of `fread`: it always completes. -/
def execFread (slot : BitVec 16) (count : Word) (s : State) : Answer := .next (fread slot count s)

/-- `FWRITE slot, bytes` (R267): all the bytes are written. -/
def fwrite (slot : BitVec 16) (bytes : List Byte) (s : State) : State :=
  match s.slotHandle? slot.toNat with
  | none => s.answer (errorResponse .badSlot)
  | some (h, hd) =>
    if hd.writable then (s.setHandle h (writeThrough bytes hd)).answer (okData (countData bytes.length))
    else s.answer (errorResponse .permissionDenied)

/-- The meaning of `fwrite`: it always completes. -/
def execFwrite (slot : BitVec 16) (bytes : List Byte) (s : State) : Answer := .next (fwrite slot bytes s)

/-- `HFEED hid, bytes` (R269): appended from outside, not gated by `writable`, the cursor where it was. -/
def hfeed (hid : BitVec 16) (bytes : List Byte) (s : State) : State :=
  match s.handle? hid.toNat with
  | none => s.answer (errorResponse .badHandle)
  | some hd => (s.setHandle hid.toNat (feed bytes hd)).answer (okData (countData bytes.length))

/-- The meaning of `hfeed`: it always completes. -/
def execHfeed (hid : BitVec 16) (bytes : List Byte) (s : State) : Answer := .next (hfeed hid bytes s)

/-- `HDUMP hid` (R270): the whole buffer, not gated by `readable`; nothing changes. -/
def hdump (hid : BitVec 16) (s : State) : State :=
  match s.handle? hid.toNat with
  | none => s.answer (errorResponse .badHandle)
  | some hd => s.answer { rdata := countData hd.buf.length, rpayload := hd.buf }

/-- The meaning of `hdump`: it always completes. -/
def execHdump (hid : BitVec 16) (s : State) : Answer := .next (hdump hid s)

/-- `FDOPEN handle` (R271): the handle into the least slot that is `None`. -/
def fdopen (handle : Word) (s : State) : State :=
  match s.handle? (handleOperand handle) with
  | none => s.answer (errorResponse .badHandle)
  | some _ =>
    match s.emptySlot? with
    | none => s.answer (errorResponse .tableFull)
    | some slot => (s.setSlot slot (some (handleOperand handle))).answer (okData (countData slot))

/-- The meaning of `fdopen`: it always completes. -/
def execFdopen (handle : Word) (s : State) : Answer := .next (fdopen handle s)

/-- `FDCLOSE slot` (R272): the slot becomes `None`; the handle stays `Live`. -/
def fdclose (slot : BitVec 16) (s : State) : State :=
  match s.fd[slot.toNat]? with
  | some (some _) => (s.setSlot slot.toNat none).answer {}
  | some none => s.answer (errorResponse .badSlot)
  | none => s.answer (errorResponse .badSlot)

/-- The meaning of `fdclose`: it always completes. -/
def execFdclose (slot : BitVec 16) (s : State) : Answer := .next (fdclose slot s)

end Sys2Proof.Machine
end

