-- ==== Sys2Proof/Machine/FlagsRegister.lean ====
section
/-! DEFINITION. The flags register commands (spec/41_flags.md R150 to R203), one definition per command. They work in every
execution state (R150); no flag has any other effect on the block (R31). -/

namespace Sys2Proof.Machine

/-- `FGET.CF` (R152): the carry flag. -/
def fgetCF (s : State) : State := flagRead .cf s

/-- The meaning of `fgetCF`: it always completes. -/
def execFgetCF (s : State) : Answer := .next (fgetCF s)

/-- `FGET.PF` (R153): the parity flag. -/
def fgetPF (s : State) : State := flagRead .pf s

/-- The meaning of `fgetPF`: it always completes. -/
def execFgetPF (s : State) : Answer := .next (fgetPF s)

/-- `FGET.AF` (R154): the auxiliary-carry flag. -/
def fgetAF (s : State) : State := flagRead .af s

/-- The meaning of `fgetAF`: it always completes. -/
def execFgetAF (s : State) : Answer := .next (fgetAF s)

/-- `FGET.ZF` (R155): the zero flag. -/
def fgetZF (s : State) : State := flagRead .zf s

/-- The meaning of `fgetZF`: it always completes. -/
def execFgetZF (s : State) : Answer := .next (fgetZF s)

/-- `FGET.SF` (R156): the sign flag. -/
def fgetSF (s : State) : State := flagRead .sf s

/-- The meaning of `fgetSF`: it always completes. -/
def execFgetSF (s : State) : Answer := .next (fgetSF s)

/-- `FGET.TF` (R157): the trap flag. -/
def fgetTF (s : State) : State := flagRead .tf s

/-- The meaning of `fgetTF`: it always completes. -/
def execFgetTF (s : State) : Answer := .next (fgetTF s)

/-- `FGET.IF` (R158): the interrupt-enable flag. -/
def fgetIF (s : State) : State := flagRead .ie s

/-- The meaning of `fgetIF`: it always completes. -/
def execFgetIF (s : State) : Answer := .next (fgetIF s)

/-- `FGET.DF` (R159): the direction flag. -/
def fgetDF (s : State) : State := flagRead .df s

/-- The meaning of `fgetDF`: it always completes. -/
def execFgetDF (s : State) : Answer := .next (fgetDF s)

/-- `FGET.OF` (R160): the overflow flag. -/
def fgetOF (s : State) : State := flagRead .of s

/-- The meaning of `fgetOF`: it always completes. -/
def execFgetOF (s : State) : Answer := .next (fgetOF s)

/-- `FGET.NT` (R161): the nested-task flag. -/
def fgetNT (s : State) : State := flagRead .nt s

/-- The meaning of `fgetNT`: it always completes. -/
def execFgetNT (s : State) : Answer := .next (fgetNT s)

/-- `FGET.RF` (R162): the resume flag. -/
def fgetRF (s : State) : State := flagRead .rf s

/-- The meaning of `fgetRF`: it always completes. -/
def execFgetRF (s : State) : Answer := .next (fgetRF s)

/-- `FGET.VM` (R163): the virtual-8086 flag. -/
def fgetVM (s : State) : State := flagRead .vm s

/-- The meaning of `fgetVM`: it always completes. -/
def execFgetVM (s : State) : Answer := .next (fgetVM s)

/-- `FGET.AC` (R164): the alignment-check flag. -/
def fgetAC (s : State) : State := flagRead .ac s

/-- The meaning of `fgetAC`: it always completes. -/
def execFgetAC (s : State) : Answer := .next (fgetAC s)

/-- `FGET.VIF` (R165): the virtual-interrupt flag. -/
def fgetVIF (s : State) : State := flagRead .vif s

/-- The meaning of `fgetVIF`: it always completes. -/
def execFgetVIF (s : State) : Answer := .next (fgetVIF s)

/-- `FGET.VIP` (R166): the virtual-interrupt-pending flag. -/
def fgetVIP (s : State) : State := flagRead .vip s

/-- The meaning of `fgetVIP`: it always completes. -/
def execFgetVIP (s : State) : Answer := .next (fgetVIP s)

/-- `FGET.ID` (R167): the identification flag. -/
def fgetID (s : State) : State := flagRead .id s

/-- The meaning of `fgetID`: it always completes. -/
def execFgetID (s : State) : Answer := .next (fgetID s)

/-- `FGET.CT` (R168): the custom single-bit toggle flag. -/
def fgetCT (s : State) : State := flagRead .ct s

/-- The meaning of `fgetCT`: it always completes. -/
def execFgetCT (s : State) : Answer := .next (fgetCT s)

/-- `FASSIGN.CF value` (R169): the carry flag becomes `wdata[0]`. -/
def fassignCF (value : Word) (s : State) : State := flagAssign .cf value s

/-- The meaning of `fassignCF`: it always completes. -/
def execFassignCF (value : Word) (s : State) : Answer := .next (fassignCF value s)

/-- `FASSIGN.PF value` (R170): the parity flag becomes `wdata[0]`. -/
def fassignPF (value : Word) (s : State) : State := flagAssign .pf value s

/-- The meaning of `fassignPF`: it always completes. -/
def execFassignPF (value : Word) (s : State) : Answer := .next (fassignPF value s)

/-- `FASSIGN.AF value` (R171): the auxiliary-carry flag becomes `wdata[0]`. -/
def fassignAF (value : Word) (s : State) : State := flagAssign .af value s

/-- The meaning of `fassignAF`: it always completes. -/
def execFassignAF (value : Word) (s : State) : Answer := .next (fassignAF value s)

/-- `FASSIGN.ZF value` (R172): the zero flag becomes `wdata[0]`. -/
def fassignZF (value : Word) (s : State) : State := flagAssign .zf value s

/-- The meaning of `fassignZF`: it always completes. -/
def execFassignZF (value : Word) (s : State) : Answer := .next (fassignZF value s)

/-- `FASSIGN.SF value` (R173): the sign flag becomes `wdata[0]`. -/
def fassignSF (value : Word) (s : State) : State := flagAssign .sf value s

/-- The meaning of `fassignSF`: it always completes. -/
def execFassignSF (value : Word) (s : State) : Answer := .next (fassignSF value s)

/-- `FASSIGN.TF value` (R174): the trap flag becomes `wdata[0]`. -/
def fassignTF (value : Word) (s : State) : State := flagAssign .tf value s

/-- The meaning of `fassignTF`: it always completes. -/
def execFassignTF (value : Word) (s : State) : Answer := .next (fassignTF value s)

/-- `FASSIGN.IF value` (R175): the interrupt-enable flag becomes `wdata[0]`. -/
def fassignIF (value : Word) (s : State) : State := flagAssign .ie value s

/-- The meaning of `fassignIF`: it always completes. -/
def execFassignIF (value : Word) (s : State) : Answer := .next (fassignIF value s)

/-- `FASSIGN.DF value` (R176): the direction flag becomes `wdata[0]`. -/
def fassignDF (value : Word) (s : State) : State := flagAssign .df value s

/-- The meaning of `fassignDF`: it always completes. -/
def execFassignDF (value : Word) (s : State) : Answer := .next (fassignDF value s)

/-- `FASSIGN.OF value` (R177): the overflow flag becomes `wdata[0]`. -/
def fassignOF (value : Word) (s : State) : State := flagAssign .of value s

/-- The meaning of `fassignOF`: it always completes. -/
def execFassignOF (value : Word) (s : State) : Answer := .next (fassignOF value s)

/-- `FASSIGN.NT value` (R178): the nested-task flag becomes `wdata[0]`. -/
def fassignNT (value : Word) (s : State) : State := flagAssign .nt value s

/-- The meaning of `fassignNT`: it always completes. -/
def execFassignNT (value : Word) (s : State) : Answer := .next (fassignNT value s)

/-- `FASSIGN.RF value` (R179): the resume flag becomes `wdata[0]`. -/
def fassignRF (value : Word) (s : State) : State := flagAssign .rf value s

/-- The meaning of `fassignRF`: it always completes. -/
def execFassignRF (value : Word) (s : State) : Answer := .next (fassignRF value s)

/-- `FASSIGN.VM value` (R180): the virtual-8086 flag becomes `wdata[0]`. -/
def fassignVM (value : Word) (s : State) : State := flagAssign .vm value s

/-- The meaning of `fassignVM`: it always completes. -/
def execFassignVM (value : Word) (s : State) : Answer := .next (fassignVM value s)

/-- `FASSIGN.AC value` (R181): the alignment-check flag becomes `wdata[0]`. -/
def fassignAC (value : Word) (s : State) : State := flagAssign .ac value s

/-- The meaning of `fassignAC`: it always completes. -/
def execFassignAC (value : Word) (s : State) : Answer := .next (fassignAC value s)

/-- `FASSIGN.VIF value` (R182): the virtual-interrupt flag becomes `wdata[0]`. -/
def fassignVIF (value : Word) (s : State) : State := flagAssign .vif value s

/-- The meaning of `fassignVIF`: it always completes. -/
def execFassignVIF (value : Word) (s : State) : Answer := .next (fassignVIF value s)

/-- `FASSIGN.VIP value` (R183): the virtual-interrupt-pending flag becomes `wdata[0]`. -/
def fassignVIP (value : Word) (s : State) : State := flagAssign .vip value s

/-- The meaning of `fassignVIP`: it always completes. -/
def execFassignVIP (value : Word) (s : State) : Answer := .next (fassignVIP value s)

/-- `FASSIGN.ID value` (R184): the identification flag becomes `wdata[0]`. -/
def fassignID (value : Word) (s : State) : State := flagAssign .id value s

/-- The meaning of `fassignID`: it always completes. -/
def execFassignID (value : Word) (s : State) : Answer := .next (fassignID value s)

/-- `FASSIGN.CT value` (R185): the custom single-bit toggle flag becomes `wdata[0]`. -/
def fassignCT (value : Word) (s : State) : State := flagAssign .ct value s

/-- The meaning of `fassignCT`: it always completes. -/
def execFassignCT (value : Word) (s : State) : Answer := .next (fassignCT value s)

/-- `IOPLGET` (R186): the I/O-privilege-level field. -/
def ioplget (s : State) : State := s.answer (okData ((ioplGet s.flags).setWidth 64))

/-- The meaning of `ioplget`: it always completes. -/
def execIoplget (s : State) : Answer := .next (ioplget s)

/-- `IOPLASSIGN value` (R187): the field becomes `wdata[7:0]` when that is at most 3; otherwise `OutOfBounds` with the
offending value, and no bit of `flags` changes. -/
def ioplassign (value : Word) (s : State) : State :=
  if (ioplOperand value).toNat > 3 then
    s.answer { status := .outOfBounds, rdata := (ioplOperand value).setWidth 64 }
  else (s.setFlags (ioplPut value s.flags)).answer {}

/-- The meaning of `ioplassign`: it always completes. -/
def execIoplassign (value : Word) (s : State) : Answer := .next (ioplassign value s)

/-- `FLAGSGET` (R188): the whole flags word. -/
def flagsget (s : State) : State := s.answer (okData s.flags)

/-- The meaning of `flagsget`: it always completes. -/
def execFlagsget (s : State) : Answer := .next (flagsget s)

/-- `FLAGSSET value` (R189): the whole flags word is replaced, no bit masked. -/
def flagsset (value : Word) (s : State) : State := (s.setFlags value).answer {}

/-- The meaning of `flagsset`: it always completes. -/
def execFlagsset (value : Word) (s : State) : Answer := .next (flagsset value s)

/-- `CC.B` (R196): the condition code below. -/
def ccB (s : State) : State := conditionRead .b s

/-- The meaning of `ccB`: it always completes. -/
def execCcB (s : State) : Answer := .next (ccB s)

/-- `CC.BE` (R197): the condition code below-or-equal. -/
def ccBE (s : State) : State := conditionRead .be s

/-- The meaning of `ccBE`: it always completes. -/
def execCcBE (s : State) : Answer := .next (ccBE s)

/-- `CC.A` (R198): the condition code above. -/
def ccA (s : State) : State := conditionRead .a s

/-- The meaning of `ccA`: it always completes. -/
def execCcA (s : State) : Answer := .next (ccA s)

/-- `CC.AE` (R199): the condition code above-or-equal. -/
def ccAE (s : State) : State := conditionRead .ae s

/-- The meaning of `ccAE`: it always completes. -/
def execCcAE (s : State) : Answer := .next (ccAE s)

/-- `CC.L` (R200): the condition code less. -/
def ccL (s : State) : State := conditionRead .l s

/-- The meaning of `ccL`: it always completes. -/
def execCcL (s : State) : Answer := .next (ccL s)

/-- `CC.LE` (R201): the condition code less-or-equal. -/
def ccLE (s : State) : State := conditionRead .le s

/-- The meaning of `ccLE`: it always completes. -/
def execCcLE (s : State) : Answer := .next (ccLE s)

/-- `CC.G` (R202): the condition code greater. -/
def ccG (s : State) : State := conditionRead .g s

/-- The meaning of `ccG`: it always completes. -/
def execCcG (s : State) : Answer := .next (ccG s)

/-- `CC.GE` (R203): the condition code greater-or-equal. -/
def ccGE (s : State) : State := conditionRead .ge s

/-- The meaning of `ccGE`: it always completes. -/
def execCcGE (s : State) : Answer := .next (ccGE s)

end Sys2Proof.Machine
end

