-- ==== Sys2Proof/Machine/RegisterFile.lean ====
section
/-! DEFINITION. The register file commands (spec/40_register_file.md R110 to R136), one definition per command over the
shared `viewGet` and `viewSet`. They work in every execution state and touch no flag (R110). -/

namespace Sys2Proof.Machine

/-- `RGET.U64 reg` (R113): bits 63:0 of `x[reg]`, unsigned. -/
def rgetU64 (reg : RegIdx) (s : State) : State := viewGet .u64 reg s

/-- The meaning of `rgetU64`: it always completes. -/
def execRgetU64 (reg : RegIdx) (s : State) : Answer := .next (rgetU64 reg s)

/-- `RGET.I64 reg` (R114): bits 63:0 of `x[reg]`, signed. -/
def rgetI64 (reg : RegIdx) (s : State) : State := viewGet .i64 reg s

/-- The meaning of `rgetI64`: it always completes. -/
def execRgetI64 (reg : RegIdx) (s : State) : Answer := .next (rgetI64 reg s)

/-- `RGET.F64 reg` (R115): bits 63:0 of `x[reg]`, an IEEE-754 bit pattern, not converted. -/
def rgetF64 (reg : RegIdx) (s : State) : State := viewGet .f64 reg s

/-- The meaning of `rgetF64`: it always completes. -/
def execRgetF64 (reg : RegIdx) (s : State) : Answer := .next (rgetF64 reg s)

/-- `RGET.U32 reg` (R116): bits 31:0 of `x[reg]`, unsigned. -/
def rgetU32 (reg : RegIdx) (s : State) : State := viewGet .u32 reg s

/-- The meaning of `rgetU32`: it always completes. -/
def execRgetU32 (reg : RegIdx) (s : State) : Answer := .next (rgetU32 reg s)

/-- `RGET.I32 reg` (R117): bits 31:0 of `x[reg]`, signed. -/
def rgetI32 (reg : RegIdx) (s : State) : State := viewGet .i32 reg s

/-- The meaning of `rgetI32`: it always completes. -/
def execRgetI32 (reg : RegIdx) (s : State) : Answer := .next (rgetI32 reg s)

/-- `RGET.F32 reg` (R118): bits 31:0 of `x[reg]`, an IEEE-754 bit pattern, not converted. -/
def rgetF32 (reg : RegIdx) (s : State) : State := viewGet .f32 reg s

/-- The meaning of `rgetF32`: it always completes. -/
def execRgetF32 (reg : RegIdx) (s : State) : Answer := .next (rgetF32 reg s)

/-- `RGET.U16 reg` (R119): bits 15:0 of `x[reg]`, unsigned. -/
def rgetU16 (reg : RegIdx) (s : State) : State := viewGet .u16 reg s

/-- The meaning of `rgetU16`: it always completes. -/
def execRgetU16 (reg : RegIdx) (s : State) : Answer := .next (rgetU16 reg s)

/-- `RGET.I16 reg` (R120): bits 15:0 of `x[reg]`, signed. -/
def rgetI16 (reg : RegIdx) (s : State) : State := viewGet .i16 reg s

/-- The meaning of `rgetI16`: it always completes. -/
def execRgetI16 (reg : RegIdx) (s : State) : Answer := .next (rgetI16 reg s)

/-- `RGET.U8 reg` (R121): bits 7:0 of `x[reg]`, unsigned. -/
def rgetU8 (reg : RegIdx) (s : State) : State := viewGet .u8 reg s

/-- The meaning of `rgetU8`: it always completes. -/
def execRgetU8 (reg : RegIdx) (s : State) : Answer := .next (rgetU8 reg s)

/-- `RGET.I8 reg` (R122): bits 7:0 of `x[reg]`, signed. -/
def rgetI8 (reg : RegIdx) (s : State) : State := viewGet .i8 reg s

/-- The meaning of `rgetI8`: it always completes. -/
def execRgetI8 (reg : RegIdx) (s : State) : Answer := .next (rgetI8 reg s)

/-- `RGET.U8H reg` (R123): bits 15:8 of `x[reg]`, unsigned. -/
def rgetU8H (reg : RegIdx) (s : State) : State := viewGet .u8h reg s

/-- The meaning of `rgetU8H`: it always completes. -/
def execRgetU8H (reg : RegIdx) (s : State) : Answer := .next (rgetU8H reg s)

/-- `RGET.I8H reg` (R124): bits 15:8 of `x[reg]`, signed. -/
def rgetI8H (reg : RegIdx) (s : State) : State := viewGet .i8h reg s

/-- The meaning of `rgetI8H`: it always completes. -/
def execRgetI8H (reg : RegIdx) (s : State) : Answer := .next (rgetI8H reg s)

/-- `RSET.U64 reg, value` (R125): `x[reg][63:0] <- wdata[63:0]`; the whole register is replaced. -/
def rsetU64 (reg : RegIdx) (value : Word) (s : State) : State := viewSet .u64 reg value s

/-- The meaning of `rsetU64`: it always completes. -/
def execRsetU64 (reg : RegIdx) (value : Word) (s : State) : Answer := .next (rsetU64 reg value s)

/-- `RSET.I64 reg, value` (R126): `x[reg][63:0] <- wdata[63:0]`; the whole register is replaced. -/
def rsetI64 (reg : RegIdx) (value : Word) (s : State) : State := viewSet .i64 reg value s

/-- The meaning of `rsetI64`: it always completes. -/
def execRsetI64 (reg : RegIdx) (value : Word) (s : State) : Answer := .next (rsetI64 reg value s)

/-- `RSET.F64 reg, value` (R127): `x[reg][63:0] <- wdata[63:0]`; the whole register is replaced. -/
def rsetF64 (reg : RegIdx) (value : Word) (s : State) : State := viewSet .f64 reg value s

/-- The meaning of `rsetF64`: it always completes. -/
def execRsetF64 (reg : RegIdx) (value : Word) (s : State) : Answer := .next (rsetF64 reg value s)

/-- `RSET.U32 reg, value` (R128): `x[reg][31:0] <- wdata[31:0]`; bits 63:32 keep their value. -/
def rsetU32 (reg : RegIdx) (value : Word) (s : State) : State := viewSet .u32 reg value s

/-- The meaning of `rsetU32`: it always completes. -/
def execRsetU32 (reg : RegIdx) (value : Word) (s : State) : Answer := .next (rsetU32 reg value s)

/-- `RSET.I32 reg, value` (R129): `x[reg][31:0] <- wdata[31:0]`; bits 63:32 keep their value. -/
def rsetI32 (reg : RegIdx) (value : Word) (s : State) : State := viewSet .i32 reg value s

/-- The meaning of `rsetI32`: it always completes. -/
def execRsetI32 (reg : RegIdx) (value : Word) (s : State) : Answer := .next (rsetI32 reg value s)

/-- `RSET.F32 reg, value` (R130): `x[reg][31:0] <- wdata[31:0]`; bits 63:32 keep their value. -/
def rsetF32 (reg : RegIdx) (value : Word) (s : State) : State := viewSet .f32 reg value s

/-- The meaning of `rsetF32`: it always completes. -/
def execRsetF32 (reg : RegIdx) (value : Word) (s : State) : Answer := .next (rsetF32 reg value s)

/-- `RSET.U16 reg, value` (R131): `x[reg][15:0] <- wdata[15:0]`; bits 63:16 keep their value. -/
def rsetU16 (reg : RegIdx) (value : Word) (s : State) : State := viewSet .u16 reg value s

/-- The meaning of `rsetU16`: it always completes. -/
def execRsetU16 (reg : RegIdx) (value : Word) (s : State) : Answer := .next (rsetU16 reg value s)

/-- `RSET.I16 reg, value` (R132): `x[reg][15:0] <- wdata[15:0]`; bits 63:16 keep their value. -/
def rsetI16 (reg : RegIdx) (value : Word) (s : State) : State := viewSet .i16 reg value s

/-- The meaning of `rsetI16`: it always completes. -/
def execRsetI16 (reg : RegIdx) (value : Word) (s : State) : Answer := .next (rsetI16 reg value s)

/-- `RSET.U8 reg, value` (R133): `x[reg][7:0] <- wdata[7:0]`; bits 63:8 keep their value. -/
def rsetU8 (reg : RegIdx) (value : Word) (s : State) : State := viewSet .u8 reg value s

/-- The meaning of `rsetU8`: it always completes. -/
def execRsetU8 (reg : RegIdx) (value : Word) (s : State) : Answer := .next (rsetU8 reg value s)

/-- `RSET.I8 reg, value` (R134): `x[reg][7:0] <- wdata[7:0]`; bits 63:8 keep their value. -/
def rsetI8 (reg : RegIdx) (value : Word) (s : State) : State := viewSet .i8 reg value s

/-- The meaning of `rsetI8`: it always completes. -/
def execRsetI8 (reg : RegIdx) (value : Word) (s : State) : Answer := .next (rsetI8 reg value s)

/-- `RSET.U8H reg, value` (R135): `x[reg][15:8] <- wdata[7:0]`; bits 63:16 and 7:0 keep their value. -/
def rsetU8H (reg : RegIdx) (value : Word) (s : State) : State := viewSet .u8h reg value s

/-- The meaning of `rsetU8H`: it always completes. -/
def execRsetU8H (reg : RegIdx) (value : Word) (s : State) : Answer := .next (rsetU8H reg value s)

/-- `RSET.I8H reg, value` (R136): `x[reg][15:8] <- wdata[7:0]`; bits 63:16 and 7:0 keep their value. -/
def rsetI8H (reg : RegIdx) (value : Word) (s : State) : State := viewSet .i8h reg value s

/-- The meaning of `rsetI8H`: it always completes. -/
def execRsetI8H (reg : RegIdx) (value : Word) (s : State) : Answer := .next (rsetI8H reg value s)

end Sys2Proof.Machine
end

