-- ==== Sys2Proof/Machine/InsnUnit.lean ====
section
/-! DEFINITION. The two ports that are served while an `EXEC` is in progress: the host's port HS and the instruction
unit's port IU (spec/30_encoding.md R80, R99, R100), and one cycle of the engine (spec/42_execution.md R220, R221;
spec/20_memory.md R62, R69 to R73). -/

namespace Sys2Proof.Machine

/-! ### Port HS -/

/-- A command on port HS (R80, R99): `HFEED` and `HDUMP` only. -/
def performHs (c : Command) (s : State) : State :=
  match decode c with
  | .ok (.hfeed hid bytes) => hfeed hid bytes s
  | .ok (.hdump hid) => hdump hid s
  | .ok _ => s.rejectCommand
  | .error _ => s.rejectCommand

/-- The response of the command just performed goes out on port HS. -/
def State.answerHs (s : State) : State := { s with outputs := s.outputs ++ [.hs s.resp] }

/-- The response of the command just performed goes out on port HC. -/
def State.answerHc (s : State) : State := { s with outputs := s.outputs ++ [.hc s.resp] }

/-- The oldest command that waits on port HS, and what waits without it. Commands on HC do not hold HS up (R80); what the
host presented after a reset event comes after the reset, which waits for the `EXEC` to end (R333). -/
def nextHs : List HostInput → Option (Command × List HostInput)
  | [] => none
  | .hs c :: rest => some (c, rest)
  | .hc c :: rest =>
    match nextHs rest with
    | some (d, others) => some (d, .hc c :: others)
    | none => none
  | .reset :: _ => none

/-- Serves up to `n` commands that wait on port HS, in their order. -/
def serveHs : Nat → State → State
  | 0, s => s
  | n + 1, s =>
    match nextHs s.inputs with
    | some (c, rest) => serveHs n (performHs c { s with inputs := rest }).answerHs
    | none => s

/-- A point at which commands of port HS may fall while an `EXEC` is in progress (R71): a draw says how many do (log 9). -/
def hostPoint (env : Env) (s : State) : State :=
  serveHs (env.hostCommands s.draws) { s with draws := s.draws + 1 }

/-! ### What the instruction unit sees -/

/-- A handle as the instruction unit knows it in a slot: its id and its flags. -/
def Handle.inSlot (slot h : Nat) (hd : Handle) : SlotView where
  slot := slot
  handle := h
  readable := hd.readable
  writable := hd.writable
  seekable := hd.seekable
  appendonly := hd.appendonly
  interactive := hd.interactive

/-- The occupied slots of a table that starts at slot `k`; how many empty ones follow the last does not show. -/
def slotViews (hp : List Handle) : Nat → List (Option Nat) → List SlotView
  | _, [] => []
  | k, none :: rest => slotViews hp (k + 1) rest
  | k, some h :: rest =>
    match hp[h]? with
    | some hd => hd.inSlot k h :: slotViews hp (k + 1) rest
    | none => slotViews hp (k + 1) rest

/-- What the instruction unit is given at the start of a cycle (R220, R221; log 18). -/
def State.prog (s : State) : ProgState :=
  { regs := s.regs, flags := s.flags, pc := s.pc, mem := s.mem, slots := slotViews s.hp 0 s.fd }

/-! ### Port IU -/

/-- A decoded command on port IU: the same semantics as on every port that may issue it, and `BadCommand` for the ten
commands the instruction unit may not issue (R99). -/
def unitCommand (i : Instr) (s : State) : State :=
  match i with
  | .rgetU64 reg => rgetU64 reg s
  | .rgetI64 reg => rgetI64 reg s
  | .rgetF64 reg => rgetF64 reg s
  | .rgetU32 reg => rgetU32 reg s
  | .rgetI32 reg => rgetI32 reg s
  | .rgetF32 reg => rgetF32 reg s
  | .rgetU16 reg => rgetU16 reg s
  | .rgetI16 reg => rgetI16 reg s
  | .rgetU8 reg => rgetU8 reg s
  | .rgetI8 reg => rgetI8 reg s
  | .rgetU8H reg => rgetU8H reg s
  | .rgetI8H reg => rgetI8H reg s
  | .rsetU64 reg value => rsetU64 reg value s
  | .rsetI64 reg value => rsetI64 reg value s
  | .rsetF64 reg value => rsetF64 reg value s
  | .rsetU32 reg value => rsetU32 reg value s
  | .rsetI32 reg value => rsetI32 reg value s
  | .rsetF32 reg value => rsetF32 reg value s
  | .rsetU16 reg value => rsetU16 reg value s
  | .rsetI16 reg value => rsetI16 reg value s
  | .rsetU8 reg value => rsetU8 reg value s
  | .rsetI8 reg value => rsetI8 reg value s
  | .rsetU8H reg value => rsetU8H reg value s
  | .rsetI8H reg value => rsetI8H reg value s
  | .fgetCF => fgetCF s
  | .fgetPF => fgetPF s
  | .fgetAF => fgetAF s
  | .fgetZF => fgetZF s
  | .fgetSF => fgetSF s
  | .fgetTF => fgetTF s
  | .fgetIF => fgetIF s
  | .fgetDF => fgetDF s
  | .fgetOF => fgetOF s
  | .fgetNT => fgetNT s
  | .fgetRF => fgetRF s
  | .fgetVM => fgetVM s
  | .fgetAC => fgetAC s
  | .fgetVIF => fgetVIF s
  | .fgetVIP => fgetVIP s
  | .fgetID => fgetID s
  | .fgetCT => fgetCT s
  | .fassignCF value => fassignCF value s
  | .fassignPF value => fassignPF value s
  | .fassignAF value => fassignAF value s
  | .fassignZF value => fassignZF value s
  | .fassignSF value => fassignSF value s
  | .fassignTF value => fassignTF value s
  | .fassignIF value => fassignIF value s
  | .fassignDF value => fassignDF value s
  | .fassignOF value => fassignOF value s
  | .fassignNT value => fassignNT value s
  | .fassignRF value => fassignRF value s
  | .fassignVM value => fassignVM value s
  | .fassignAC value => fassignAC value s
  | .fassignVIF value => fassignVIF value s
  | .fassignVIP value => fassignVIP value s
  | .fassignID value => fassignID value s
  | .fassignCT value => fassignCT value s
  | .ioplget => ioplget s
  | .ioplassign value => ioplassign value s
  | .flagsget => flagsget s
  | .flagsset value => flagsset value s
  | .ccB => ccB s
  | .ccBE => ccBE s
  | .ccA => ccA s
  | .ccAE => ccAE s
  | .ccL => ccL s
  | .ccLE => ccLE s
  | .ccG => ccG s
  | .ccGE => ccGE s
  | .init _ => s.rejectCommand
  | .exec _ => s.rejectCommand
  | .stateget => s.rejectCommand
  | .errget => s.rejectCommand
  | .retget => s.rejectCommand
  | .stdio => s.rejectCommand
  | .hnew _ => s.rejectCommand
  | .install _ _ => s.rejectCommand
  | .fread slot count => fread slot count s
  | .fwrite slot bytes => fwrite slot bytes s
  | .hfeed _ _ => s.rejectCommand
  | .hdump _ => s.rejectCommand
  | .fdopen handle => fdopen handle s
  | .fdclose slot => fdclose slot s

/-- A command on port IU (R99). -/
def performIu (c : Command) (s : State) : State :=
  match decode c with
  | .ok i => unitCommand i s
  | .error _ => s.rejectCommand

/-- `mem <- m`. -/
def State.setMem (m : Memory) (s : State) : State := { s with mem := m }

/-- `pc <- v` (R32). -/
def State.setPc (v : Word) (s : State) : State := { s with pc := v }

/-- Growing the image is within the bound of R61 (log 15). -/
def State.mayGrow (s : State) (bytes : List Byte) : Bool :=
  decide (s.mem.size + bytes.length ≤ s.maxMemory.toNat)

/-- The outcome of a cycle: a failed `MemRead` or `MemWrite` forces `Fault(InvalidMemoryAccess)` (R221; log 14). -/
def forcedOutcome (failed : Bool) (out : CycleOutcome) : CycleOutcome :=
  if failed then .fault .invalidMemoryAccess else out

/-- The rest of a cycle: what the instruction unit still does, after whether an access of it has failed. Commands of port
HS may fall before every access (R71). Each access is performed before the next begins (R69, R70). -/
def runUnit (env : Env) : UnitProgram → Bool → State → State × CycleOutcome
  | .done out, failed, s => (s, forcedOutcome failed out)
  | .command c next, failed, s =>
    let t := performIu c (hostPoint env s)
    runUnit env (next t.resp) failed t
  | .memRead addr n next, failed, s =>
    let t := hostPoint env s
    match t.mem.read addr n with
    | some v => runUnit env (next (some v)) failed t
    | none => runUnit env (next none) true t
  | .memWrite addr n v next, failed, s =>
    let t := hostPoint env s
    match t.mem.write addr n v with
    | some m => runUnit env (next true) failed (t.setMem m)
    | none => runUnit env (next false) true t
  | .readPc next, failed, s =>
    let t := hostPoint env s
    runUnit env (next t.pc) failed t
  | .writePc v next, failed, s => runUnit env next failed ((hostPoint env s).setPc v)
  | .memGrow bytes next, failed, s =>
    let t := hostPoint env s
    if t.mayGrow bytes then runUnit env (next true) failed (t.setMem (t.mem.grow bytes))
    else runUnit env (next false) failed t
  | .memShrink size next, failed, s =>
    let t := hostPoint env s
    runUnit env next failed (t.setMem (t.mem.shrink size))

/-- One cycle (R220): one call of `InsnStep` on what it sees of the program-visible state, with a fresh draw. Commands of
port HS may fall before it (R71). -/
def cycle (env : Env) (s : State) : State × CycleOutcome :=
  let t := hostPoint env s
  runUnit env (env.insnStep t.prog t.draws) false { t with draws := t.draws + 1 }

end Sys2Proof.Machine
end

