-- ==== Sys2Proof/Machine/Engine.lean ====
section
/-! DEFINITION. The execution engine commands (spec/42_execution.md R220 to R241): `INIT` with the loader, `EXEC` with its
bounded loop, and the three that inspect the execution state. -/

namespace Sys2Proof.Machine

/-- The loader under what R233 requires of it: the image fits `max_memory` and has room for the stack region; a result
that breaks either is an `Err` (log 6). -/
def loadImage (env : Env) (ops : LoadOperands) : Option LoadResult :=
  match env.load ops with
  | none => none
  | some r =>
    if r.image.length ≤ ops.maxMemory.toNat ∧ ops.stackSize.toNat ≤ r.image.length then some r else none

/-- The loader's operands: an absent operand of `INIT` takes its default (R5, R222). -/
def loadOperands (env : Env) (ops : InitOperands) : LoadOperands where
  exe := ops.exe
  maxMemory := ops.maxMemory.getD env.maxMemory
  stackSize := ops.stackSize.getD env.stackSize
  maxFiles := ops.maxFiles.getD env.maxFiles
  args := ops.args.getD env.args

/-- `INIT` fails (R222, R309): nothing changes but the latch. -/
def State.initFails (s : State) : State := { s with initFailed := true }.answer (errorResponse .initError)

/-- `INIT` succeeds (R222, R45): the loader's registers, flags, `pc` and image, the limits latched, a table of empty slots,
`Running`; the handle pool is untouched. -/
def State.initSucceeds (ops : LoadOperands) (r : LoadResult) (s : State) : State :=
  { s with
    regs := r.regs
    flags := r.flags
    pc := r.pc
    mem := imageOf r.image
    maxMemory := ops.maxMemory
    stackSize := ops.stackSize
    fd := List.replicate ops.maxFiles.toNat none
    xstate := .running }.answer {}

/-- `INIT` in a configuration (R222): the payload, then the state, then `max_files`, then the loader. -/
def initIn (env : Env) (bytes : List Byte) (s : State) : State :=
  match initOperands bytes with
  | none => s.rejectCommand
  | some ops =>
    if s.xstate ≠ .uninitialized ∨ s.initFailed = true then s.answer (errorResponse .badState)
    else if (loadOperands env ops).maxFiles.toNat > 65536 then s.initFails
    else
      match loadImage env (loadOperands env ops) with
      | none => s.initFails
      | some r => s.initSucceeds (loadOperands env ops) r

/-- The bounded loop of `EXEC` (R223): `budget` cycles are still allowed and `n` are done. An outcome is acted on before
the budget is looked at (R231), every cycle counts (R227), and the state a cycle returned is kept whatever its outcome
(R236). -/
def runCycles (env : Env) : Nat → Nat → State → State × Nat × StopReason
  | 0, n, s => (s, n, .maxCycles)
  | budget + 1, n, s =>
    match cycle env s with
    | (t, .goOn) => runCycles env budget (n + 1) t
    | (t, .forfeit) => (t, n + 1, .forfeitTimeslot)
    | (t, .exit rc) => (t.exitProgram rc, n + 1, .terminated)
    | (t, .fault k) => (t.captureFault k, n + 1, .error)

/-- `EXEC budget` in a configuration (R223): without side effects unless `Running` (R228). -/
def execIn (env : Env) (budget : Word) (s : State) : State :=
  if s.xstate = .running then
    match runCycles env budget.toNat 0 s with
    | (t, n, stop) => t.answer (okTag (stopCode stop) (countData n))
  else s.answer (okTag (stopCode .notRunning) 0)

/-- `INIT` (R222). -/
def execInit (bytes : List Byte) (s : State) : Answer := .next (initIn Config.env bytes s)

/-- `EXEC budget` (R223). -/
def execExec (budget : Word) (s : State) : Answer := .next (execIn Config.env budget s)

/-- `STATEGET` (R224): the execution state and what it carries. -/
def execStateget (s : State) : Answer :=
  .next (s.answer (match s.xstate with
    | .uninitialized => okTag (xstateCode s.xstate) 0
    | .running => okTag (xstateCode s.xstate) 0
    | .terminated rc => okTag (xstateCode s.xstate) (rc.signExtend 64)
    | .error k => okTag (xstateCode s.xstate) ((faultCode k).setWidth 64)))

/-- `ERRGET` (R225): the fault kind, in `Error` only. -/
def execErrget (s : State) : Answer :=
  .next (s.answer (match s.xstate with
    | .error k => okTag 1 ((faultCode k).setWidth 64)
    | .uninitialized => okTag 0 0
    | .running => okTag 0 0
    | .terminated _ => okTag 0 0))

/-- `RETGET` (R226): the return code, in `Terminated` only. -/
def execRetget (s : State) : Answer :=
  .next (s.answer (match s.xstate with
    | .terminated rc => okTag 1 (rc.signExtend 64)
    | .uninitialized => okTag 0 0
    | .running => okTag 0 0
    | .error _ => okTag 0 0))

end Sys2Proof.Machine
end

