-- ==== Sys2Proof/Machine/Dispatch.lean ====
section
/-! DEFINITION. One arm per constructor of Instr: the command's meaning. -/

namespace Sys2Proof.Machine

def exec (i : Instr) (s : State) : Host.Outcome State Fault Refusal :=
  match i with
  | .rgetU64 reg => Sys2Proof.Machine.execRgetU64 reg s
  | .rgetI64 reg => Sys2Proof.Machine.execRgetI64 reg s
  | .rgetF64 reg => Sys2Proof.Machine.execRgetF64 reg s
  | .rgetU32 reg => Sys2Proof.Machine.execRgetU32 reg s
  | .rgetI32 reg => Sys2Proof.Machine.execRgetI32 reg s
  | .rgetF32 reg => Sys2Proof.Machine.execRgetF32 reg s
  | .rgetU16 reg => Sys2Proof.Machine.execRgetU16 reg s
  | .rgetI16 reg => Sys2Proof.Machine.execRgetI16 reg s
  | .rgetU8 reg => Sys2Proof.Machine.execRgetU8 reg s
  | .rgetI8 reg => Sys2Proof.Machine.execRgetI8 reg s
  | .rgetU8H reg => Sys2Proof.Machine.execRgetU8H reg s
  | .rgetI8H reg => Sys2Proof.Machine.execRgetI8H reg s
  | .rsetU64 reg value => Sys2Proof.Machine.execRsetU64 reg value s
  | .rsetI64 reg value => Sys2Proof.Machine.execRsetI64 reg value s
  | .rsetF64 reg value => Sys2Proof.Machine.execRsetF64 reg value s
  | .rsetU32 reg value => Sys2Proof.Machine.execRsetU32 reg value s
  | .rsetI32 reg value => Sys2Proof.Machine.execRsetI32 reg value s
  | .rsetF32 reg value => Sys2Proof.Machine.execRsetF32 reg value s
  | .rsetU16 reg value => Sys2Proof.Machine.execRsetU16 reg value s
  | .rsetI16 reg value => Sys2Proof.Machine.execRsetI16 reg value s
  | .rsetU8 reg value => Sys2Proof.Machine.execRsetU8 reg value s
  | .rsetI8 reg value => Sys2Proof.Machine.execRsetI8 reg value s
  | .rsetU8H reg value => Sys2Proof.Machine.execRsetU8H reg value s
  | .rsetI8H reg value => Sys2Proof.Machine.execRsetI8H reg value s
  | .fgetCF => Sys2Proof.Machine.execFgetCF s
  | .fgetPF => Sys2Proof.Machine.execFgetPF s
  | .fgetAF => Sys2Proof.Machine.execFgetAF s
  | .fgetZF => Sys2Proof.Machine.execFgetZF s
  | .fgetSF => Sys2Proof.Machine.execFgetSF s
  | .fgetTF => Sys2Proof.Machine.execFgetTF s
  | .fgetIF => Sys2Proof.Machine.execFgetIF s
  | .fgetDF => Sys2Proof.Machine.execFgetDF s
  | .fgetOF => Sys2Proof.Machine.execFgetOF s
  | .fgetNT => Sys2Proof.Machine.execFgetNT s
  | .fgetRF => Sys2Proof.Machine.execFgetRF s
  | .fgetVM => Sys2Proof.Machine.execFgetVM s
  | .fgetAC => Sys2Proof.Machine.execFgetAC s
  | .fgetVIF => Sys2Proof.Machine.execFgetVIF s
  | .fgetVIP => Sys2Proof.Machine.execFgetVIP s
  | .fgetID => Sys2Proof.Machine.execFgetID s
  | .fgetCT => Sys2Proof.Machine.execFgetCT s
  | .fassignCF value => Sys2Proof.Machine.execFassignCF value s
  | .fassignPF value => Sys2Proof.Machine.execFassignPF value s
  | .fassignAF value => Sys2Proof.Machine.execFassignAF value s
  | .fassignZF value => Sys2Proof.Machine.execFassignZF value s
  | .fassignSF value => Sys2Proof.Machine.execFassignSF value s
  | .fassignTF value => Sys2Proof.Machine.execFassignTF value s
  | .fassignIF value => Sys2Proof.Machine.execFassignIF value s
  | .fassignDF value => Sys2Proof.Machine.execFassignDF value s
  | .fassignOF value => Sys2Proof.Machine.execFassignOF value s
  | .fassignNT value => Sys2Proof.Machine.execFassignNT value s
  | .fassignRF value => Sys2Proof.Machine.execFassignRF value s
  | .fassignVM value => Sys2Proof.Machine.execFassignVM value s
  | .fassignAC value => Sys2Proof.Machine.execFassignAC value s
  | .fassignVIF value => Sys2Proof.Machine.execFassignVIF value s
  | .fassignVIP value => Sys2Proof.Machine.execFassignVIP value s
  | .fassignID value => Sys2Proof.Machine.execFassignID value s
  | .fassignCT value => Sys2Proof.Machine.execFassignCT value s
  | .ioplget => Sys2Proof.Machine.execIoplget s
  | .ioplassign value => Sys2Proof.Machine.execIoplassign value s
  | .flagsget => Sys2Proof.Machine.execFlagsget s
  | .flagsset value => Sys2Proof.Machine.execFlagsset value s
  | .ccB => Sys2Proof.Machine.execCcB s
  | .ccBE => Sys2Proof.Machine.execCcBE s
  | .ccA => Sys2Proof.Machine.execCcA s
  | .ccAE => Sys2Proof.Machine.execCcAE s
  | .ccL => Sys2Proof.Machine.execCcL s
  | .ccLE => Sys2Proof.Machine.execCcLE s
  | .ccG => Sys2Proof.Machine.execCcG s
  | .ccGE => Sys2Proof.Machine.execCcGE s
  | .init bytes => Sys2Proof.Machine.execInit bytes s
  | .exec budget => Sys2Proof.Machine.execExec budget s
  | .stateget => Sys2Proof.Machine.execStateget s
  | .errget => Sys2Proof.Machine.execErrget s
  | .retget => Sys2Proof.Machine.execRetget s
  | .stdio => Sys2Proof.Machine.execStdio s
  | .hnew caps => Sys2Proof.Machine.execHnew caps s
  | .install slot handle => Sys2Proof.Machine.execInstall slot handle s
  | .fread slot count => Sys2Proof.Machine.execFread slot count s
  | .fwrite slot bytes => Sys2Proof.Machine.execFwrite slot bytes s
  | .hfeed hid bytes => Sys2Proof.Machine.execHfeed hid bytes s
  | .hdump hid => Sys2Proof.Machine.execHdump hid s
  | .fdopen handle => Sys2Proof.Machine.execFdopen handle s
  | .fdclose slot => Sys2Proof.Machine.execFdclose slot s

end Sys2Proof.Machine
end

