-- ==== Sys2Proof/Machine/HostPorts.lean ====
section
/-! DEFINITION. Serving what the host has presented (spec/30_encoding.md R80, R81, R92, R93, R99; spec/70_reset_and_hazards.md
R330, R333): the decoder first, then the command's own meaning. -/

namespace Sys2Proof.Machine

/-- A command on port HC, which may issue every command (R99). An illegal word is answered `BadCommand` with nothing
changed (R92). -/
def performHc (c : Command) (s : State) : Answer :=
  match decode c with
  | .ok i => exec i s
  | .error _ => .next s.rejectCommand

/-- The response of the command just performed goes out on port HC. -/
def answerOnHc : Answer → Answer
  | .next t => .next t.answerHc
  | .fault f => .fault f
  | .refused r => .refused r

/-- Serves the oldest thing the host has presented; with nothing presented the block waits as it is (log 19). -/
def serveHost (s : State) : Answer :=
  match s.inputs with
  | [] => .next s
  | .hc c :: rest => answerOnHc (performHc c { s with inputs := rest })
  | .hs c :: rest => .next (performHs c { s with inputs := rest }).answerHs
  | .reset :: rest => .next (s.resetEvent rest)

/-- The host presents a command on port HC, ahead of everything that waits. -/
def State.present (c : Command) (s : State) : State := { s with inputs := .hc c :: s.inputs }

end Sys2Proof.Machine
end

