-- ==== Sys2Proof/Machine/Step.lean ====
section
/-! DEFINITION. One step of the block: one transition per command or event of the host (spec/70_reset_and_hazards.md
R342). -/

namespace Sys2Proof.Machine

/-- One step: the oldest input of the host is served. A whole `EXEC` is one step, with the commands of port HS that fall
into it (logs 9, 10). -/
def step (s : State) : Host.Outcome State Fault Refusal := serveHost s

/-- The host presents the command with this word, `wdata` 0 and no payload on port HC, so that the next step serves it
(log 11). -/
def State.withFetchWord (s : State) (nbits w : Nat) : State := s.present (commandOfTableWord nbits w)

end Sys2Proof.Machine
end

