-- ==== Sys2Proof/Machine/Written.lean ====
section
/-! DEFINITION. The written form of a command (spec/30_encoding.md R97, R98): mnemonic, suffix and operands. Nothing of the
machine depends on it. -/

namespace Sys2Proof.Machine

/-- The mnemonic of a command with its suffix (R87, R97, R98). -/
def mnemonic : Instr → String
  | .rgetU64 _ => "RGET.U64"
  | .rgetI64 _ => "RGET.I64"
  | .rgetF64 _ => "RGET.F64"
  | .rgetU32 _ => "RGET.U32"
  | .rgetI32 _ => "RGET.I32"
  | .rgetF32 _ => "RGET.F32"
  | .rgetU16 _ => "RGET.U16"
  | .rgetI16 _ => "RGET.I16"
  | .rgetU8 _ => "RGET.U8"
  | .rgetI8 _ => "RGET.I8"
  | .rgetU8H _ => "RGET.U8H"
  | .rgetI8H _ => "RGET.I8H"
  | .rsetU64 _ _ => "RSET.U64"
  | .rsetI64 _ _ => "RSET.I64"
  | .rsetF64 _ _ => "RSET.F64"
  | .rsetU32 _ _ => "RSET.U32"
  | .rsetI32 _ _ => "RSET.I32"
  | .rsetF32 _ _ => "RSET.F32"
  | .rsetU16 _ _ => "RSET.U16"
  | .rsetI16 _ _ => "RSET.I16"
  | .rsetU8 _ _ => "RSET.U8"
  | .rsetI8 _ _ => "RSET.I8"
  | .rsetU8H _ _ => "RSET.U8H"
  | .rsetI8H _ _ => "RSET.I8H"
  | .fgetCF => "FGET.CF"
  | .fgetPF => "FGET.PF"
  | .fgetAF => "FGET.AF"
  | .fgetZF => "FGET.ZF"
  | .fgetSF => "FGET.SF"
  | .fgetTF => "FGET.TF"
  | .fgetIF => "FGET.IF"
  | .fgetDF => "FGET.DF"
  | .fgetOF => "FGET.OF"
  | .fgetNT => "FGET.NT"
  | .fgetRF => "FGET.RF"
  | .fgetVM => "FGET.VM"
  | .fgetAC => "FGET.AC"
  | .fgetVIF => "FGET.VIF"
  | .fgetVIP => "FGET.VIP"
  | .fgetID => "FGET.ID"
  | .fgetCT => "FGET.CT"
  | .fassignCF _ => "FASSIGN.CF"
  | .fassignPF _ => "FASSIGN.PF"
  | .fassignAF _ => "FASSIGN.AF"
  | .fassignZF _ => "FASSIGN.ZF"
  | .fassignSF _ => "FASSIGN.SF"
  | .fassignTF _ => "FASSIGN.TF"
  | .fassignIF _ => "FASSIGN.IF"
  | .fassignDF _ => "FASSIGN.DF"
  | .fassignOF _ => "FASSIGN.OF"
  | .fassignNT _ => "FASSIGN.NT"
  | .fassignRF _ => "FASSIGN.RF"
  | .fassignVM _ => "FASSIGN.VM"
  | .fassignAC _ => "FASSIGN.AC"
  | .fassignVIF _ => "FASSIGN.VIF"
  | .fassignVIP _ => "FASSIGN.VIP"
  | .fassignID _ => "FASSIGN.ID"
  | .fassignCT _ => "FASSIGN.CT"
  | .ioplget => "IOPLGET"
  | .ioplassign _ => "IOPLASSIGN"
  | .flagsget => "FLAGSGET"
  | .flagsset _ => "FLAGSSET"
  | .ccB => "CC.B"
  | .ccBE => "CC.BE"
  | .ccA => "CC.A"
  | .ccAE => "CC.AE"
  | .ccL => "CC.L"
  | .ccLE => "CC.LE"
  | .ccG => "CC.G"
  | .ccGE => "CC.GE"
  | .init _ => "INIT"
  | .exec _ => "EXEC"
  | .stateget => "STATEGET"
  | .errget => "ERRGET"
  | .retget => "RETGET"
  | .stdio => "STDIO"
  | .hnew _ => "HNEW"
  | .install _ _ => "INSTALL"
  | .fread _ _ => "FREAD"
  | .fwrite _ _ => "FWRITE"
  | .hfeed _ _ => "HFEED"
  | .hdump _ => "HDUMP"
  | .fdopen _ => "FDOPEN"
  | .fdclose _ => "FDCLOSE"

/-- A number in decimal (R97). -/
def decimal (n : Nat) : String := toString n

/-- A number in hexadecimal (R97), the digits above 9 in capitals as in its examples. -/
def hexadecimal (n : Nat) : String := "0x" ++ String.ofList ((Nat.toDigits 16 n).map Char.toUpper)

/-- A register, `x0` to `x15` (R97). -/
def registerName (reg : RegIdx) : String := "x" ++ decimal reg.val

/-- A handle id, `h<number>` (R97). -/
def handleName (h : Nat) : String := "h" ++ decimal h

/-- A value written through a view (R97): a signed one in decimal with a leading `-` when negative, any other in
hexadecimal. DESIGN CHOICE (log 23): which of the two bases R97 allows, and that only the bits of the view are shown. -/
def viewValue (v : View) (value : Word) : String :=
  if viewSigned v then toString (value.extractLsb' 0 (viewWidth v)).toInt
  else hexadecimal (value.extractLsb' 0 (viewWidth v)).toNat

/-- A byte string in double quotes, with `\n` for byte `0x0A` (R97). DESIGN CHOICE (log 23): every other byte, a double
quote and a backslash among them, is shown as the character of its code, with no escape; R97 says nothing of it. -/
def quoted (bytes : List Byte) : String :=
  let shown := bytes.flatMap (fun b => if b = 0x0A then ['\\', 'n'] else [Char.ofNat b.toNat])
  "\"" ++ String.ofList shown ++ "\""

/-- A capability set: letters of `rwsai`, or `-` for none (R97). -/
def capabilities (caps : BitVec 5) : String :=
  let letters := (['r', 'w', 's', 'a', 'i'].zipIdx.filter (fun p => caps.getLsbD p.2)).map Prod.fst
  if letters.isEmpty then "-" else String.ofList letters

/-- A limit operand of `INIT` that is present (R97), in decimal as in the example of R97 (log 23). -/
def limitText (name : String) (v : Option Word) : String :=
  match v with
  | some w => ", " ++ name ++ "=" ++ decimal w.toNat
  | none => ""

/-- The operands of `INIT`: `exe` and the limits by name, as in the example of R97. DESIGN CHOICE (log 23), as R97 shows no
more: the limits stand in the order of R222, each argument follows as a quoted operand without a name, absent operands
are left out, and a malformed payload is shown as its bytes. -/
def initText (bytes : List Byte) : String :=
  match initOperands bytes with
  | none => " " ++ quoted bytes
  | some ops =>
    " exe" ++ limitText "max_memory" ops.maxMemory ++ limitText "stack_size" ops.stackSize ++
      limitText "max_files" ops.maxFiles ++
      (match ops.args with
        | none => ""
        | some args => args.foldl (fun text arg => text ++ ", " ++ quoted arg) "")

/-- The operands of a command as they are written after the mnemonic (R97). DESIGN CHOICE (log 23): where R97 allows either
base, `FLAGSSET` is shown in hexadecimal and every other number in decimal, and of an operand only the bits the command
uses are shown. -/
def operandText : Instr → String
  | .rgetU64 reg => " " ++ registerName reg
  | .rgetI64 reg => " " ++ registerName reg
  | .rgetF64 reg => " " ++ registerName reg
  | .rgetU32 reg => " " ++ registerName reg
  | .rgetI32 reg => " " ++ registerName reg
  | .rgetF32 reg => " " ++ registerName reg
  | .rgetU16 reg => " " ++ registerName reg
  | .rgetI16 reg => " " ++ registerName reg
  | .rgetU8 reg => " " ++ registerName reg
  | .rgetI8 reg => " " ++ registerName reg
  | .rgetU8H reg => " " ++ registerName reg
  | .rgetI8H reg => " " ++ registerName reg
  | .rsetU64 reg value => " " ++ registerName reg ++ ", " ++ viewValue .u64 value
  | .rsetI64 reg value => " " ++ registerName reg ++ ", " ++ viewValue .i64 value
  | .rsetF64 reg value => " " ++ registerName reg ++ ", " ++ viewValue .f64 value
  | .rsetU32 reg value => " " ++ registerName reg ++ ", " ++ viewValue .u32 value
  | .rsetI32 reg value => " " ++ registerName reg ++ ", " ++ viewValue .i32 value
  | .rsetF32 reg value => " " ++ registerName reg ++ ", " ++ viewValue .f32 value
  | .rsetU16 reg value => " " ++ registerName reg ++ ", " ++ viewValue .u16 value
  | .rsetI16 reg value => " " ++ registerName reg ++ ", " ++ viewValue .i16 value
  | .rsetU8 reg value => " " ++ registerName reg ++ ", " ++ viewValue .u8 value
  | .rsetI8 reg value => " " ++ registerName reg ++ ", " ++ viewValue .i8 value
  | .rsetU8H reg value => " " ++ registerName reg ++ ", " ++ viewValue .u8h value
  | .rsetI8H reg value => " " ++ registerName reg ++ ", " ++ viewValue .i8h value
  | .fgetCF => ""
  | .fgetPF => ""
  | .fgetAF => ""
  | .fgetZF => ""
  | .fgetSF => ""
  | .fgetTF => ""
  | .fgetIF => ""
  | .fgetDF => ""
  | .fgetOF => ""
  | .fgetNT => ""
  | .fgetRF => ""
  | .fgetVM => ""
  | .fgetAC => ""
  | .fgetVIF => ""
  | .fgetVIP => ""
  | .fgetID => ""
  | .fgetCT => ""
  | .fassignCF value => " " ++ decimal (bitOperand value).toNat
  | .fassignPF value => " " ++ decimal (bitOperand value).toNat
  | .fassignAF value => " " ++ decimal (bitOperand value).toNat
  | .fassignZF value => " " ++ decimal (bitOperand value).toNat
  | .fassignSF value => " " ++ decimal (bitOperand value).toNat
  | .fassignTF value => " " ++ decimal (bitOperand value).toNat
  | .fassignIF value => " " ++ decimal (bitOperand value).toNat
  | .fassignDF value => " " ++ decimal (bitOperand value).toNat
  | .fassignOF value => " " ++ decimal (bitOperand value).toNat
  | .fassignNT value => " " ++ decimal (bitOperand value).toNat
  | .fassignRF value => " " ++ decimal (bitOperand value).toNat
  | .fassignVM value => " " ++ decimal (bitOperand value).toNat
  | .fassignAC value => " " ++ decimal (bitOperand value).toNat
  | .fassignVIF value => " " ++ decimal (bitOperand value).toNat
  | .fassignVIP value => " " ++ decimal (bitOperand value).toNat
  | .fassignID value => " " ++ decimal (bitOperand value).toNat
  | .fassignCT value => " " ++ decimal (bitOperand value).toNat
  | .ioplget => ""
  | .ioplassign value => " " ++ decimal (ioplOperand value).toNat
  | .flagsget => ""
  | .flagsset value => " " ++ hexadecimal value.toNat
  | .ccB => ""
  | .ccBE => ""
  | .ccA => ""
  | .ccAE => ""
  | .ccL => ""
  | .ccLE => ""
  | .ccG => ""
  | .ccGE => ""
  | .init bytes => initText bytes
  | .exec budget => " " ++ decimal budget.toNat
  | .stateget => ""
  | .errget => ""
  | .retget => ""
  | .stdio => ""
  | .hnew caps => " " ++ capabilities caps
  | .install slot handle => " " ++ decimal slot.toNat ++ ", " ++ handleName (handleOperand handle)
  | .fread slot count => " " ++ decimal slot.toNat ++ ", " ++ decimal count.toNat
  | .fwrite slot bytes => " " ++ decimal slot.toNat ++ ", " ++ quoted bytes
  | .hfeed hid bytes => " " ++ handleName hid.toNat ++ ", " ++ quoted bytes
  | .hdump hid => " " ++ handleName hid.toNat
  | .fdopen handle => " " ++ handleName (handleOperand handle)
  | .fdclose slot => " " ++ decimal slot.toNat

/-- A command in the written syntax (R97). -/
def written (i : Instr) : String := mnemonic i ++ operandText i

end Sys2Proof.Machine
end

