-- ==== Sys2Proof/Safety.lean ====
section
/-! DEFINITION. What holds of a state in every run: the invariants the spec states of the block
(spec/10_state.md R35 to R39, R43, spec/20_memory.md R61), and what a safe run is. -/

namespace Sys2Proof.Machine

/-- The handle invariant `0 <= pos <= len(buf)` (R39). -/
def Handle.Inv (hd : Handle) : Prop := hd.pos.toNat ≤ hd.buf.length

/-- The invariants of the block's state. -/
structure State.Inv (s : State) : Prop where
  /-- the image is in canonical form (log 13) -/
  memWf : s.mem.wf = true
  /-- `mem_size <= max_memory` (R36, R61) -/
  memBound : s.mem.size ≤ s.maxMemory.toNat
  /-- `fd_cap` is 0..65536 (R37) -/
  tableBound : s.fd.length ≤ 65536
  /-- at most `N_HANDLES` entries are `Live` (R38) -/
  poolBound : s.hp.length ≤ Config.nHandles
  /-- every cursor lies in its buffer (R39) -/
  cursors : ∀ (h : Nat) (hd : Handle), s.hp[h]? = some hd → hd.Inv
  /-- a slot holds the id of a `Live` handle (R37, R38) -/
  slotsLive : ∀ slot h : Nat, s.fd[slot]? = some (some h) → h < s.hp.length
  /-- the latch is set in `Uninitialized` only (R35) -/
  latch : s.initFailed = true → s.xstate = .uninitialized
  /-- before `INIT` there is no image and no table (R37, R43) -/
  noImage : s.xstate = .uninitialized → s.mem.size = 0 ∧ s.fd = []

/-- A run of `n` steps is safe when it neither faults nor is refused and ends in a state of the invariant. -/
def SafeRun (n : Nat) (s : State) : Prop :=
  ∃ t, Host.Core.run { State := State, Fault := Fault, Refusal := Refusal, step := step, reset := State.reset } n s =
    .next t ∧ t.Inv

end Sys2Proof.Machine
end

