-- ==== Sys2Proof/Certificates/Slice0/Obligations.lean ====
section
/-! DEFINITION. The statements for the provers: what the rules of spec/ say the commands and the machine do. A
statement that rests on a choice of the model names its log entry; one that holds a clause the spec marks as its own
decision names the decision. -/

namespace Sys2Proof.Claims

open Sys2Proof.Machine

/-- The decoder reads the command word as this instruction, whatever the operands hold. -/
def Names (word : Nat) (mk : Word → List Byte → Instr) : Prop :=
  ∀ (wdata : Word) (payload : List Byte),
    decode { cmd := BitVec.ofNat 32 word, wdata := wdata, payload := payload } = .ok (mk wdata payload)

/-- `RGET` through one view: its words (for registers below `regs`) and its effect; `read` is the value `rdata` gets. -/
def ReadsView (mk : RegIdx → Instr) (word regs : Nat) (read : Word → Word) : Prop :=
  (∀ reg : RegIdx, reg.val < regs → Names (word + reg.val) (fun _ _ => mk reg)) ∧
  ∀ (reg : RegIdx) (s : State), exec (mk reg) s = .next { s with resp := { rdata := read s.regs[reg] } }

/-- `RSET` through one view of bits `lo .. lo+width-1`: its words and its effect; the register's other bits, every other
register and everything else stay. -/
def MergesView (mk : RegIdx → Word → Instr) (word regs lo width : Nat) : Prop :=
  (∀ reg : RegIdx, reg.val < regs → Names (word + reg.val) (fun wdata _ => mk reg wdata)) ∧
  ∀ (reg : RegIdx) (value : Word) (s : State), ∃ x : Word,
    exec (mk reg value) s = .next { s with regs := s.regs.set reg x, resp := {} } ∧
    ∀ i < 64, x.getLsbD i = if lo ≤ i ∧ i < lo + width then value.getLsbD (i - lo) else s.regs[reg].getLsbD i

/-- One bit as `rdata` carries it: 0 or 1 (R85). -/
def bitAsData (b : Bool) : Word := if b = true then 1 else 0

/-- `FGET` of the flag at one bit: its word and its effect. -/
def ReadsFlag (i : Instr) (word bit : Nat) : Prop :=
  Names word (fun _ _ => i) ∧
  ∀ s : State, exec i s = .next { s with resp := { rdata := bitAsData (s.flags.getLsbD bit) } }

/-- `FASSIGN` of the flag at one bit: its word and its effect; the other 63 bits of `flags` and everything else stay. -/
def AssignsFlag (mk : Word → Instr) (word bit : Nat) : Prop :=
  Names word (fun wdata _ => mk wdata) ∧
  ∀ (value : Word) (s : State), ∃ f : Word,
    exec (mk value) s = .next { s with flags := f, resp := {} } ∧
    ∀ i < 64, f.getLsbD i = if i = bit then value.getLsbD 0 else s.flags.getLsbD i

/-- `CC`: its word and its effect; `cond` is the condition as a function of `CF`, `ZF`, `SF`, `OF`. -/
def ReadsCondition (i : Instr) (word : Nat) (cond : Bool → Bool → Bool → Bool → Bool) : Prop :=
  Names word (fun _ _ => i) ∧
  ∀ (s : State) (b : Bool),
    b = cond (s.flags.getLsbD 0) (s.flags.getLsbD 6) (s.flags.getLsbD 7) (s.flags.getLsbD 11) →
    exec i s = .next { s with resp := { rdata := bitAsData b } }

/-- The command completes and leaves this state. -/
def Runs (i : Instr) (s t : State) : Prop := exec i s = .next t

/-- The command word is inside the tables (R83, R87 to R92). -/
def LegalWord (op sel idx : Nat) : Prop :=
  ((op = 0x10 ∨ op = 0x11) ∧ sel ∈ [0x00, 0x01, 0x02, 0x10, 0x11, 0x12, 0x20, 0x21, 0x30, 0x31] ∧ idx < 16) ∨
  ((op = 0x10 ∨ op = 0x11) ∧ (sel = 0x40 ∨ sel = 0x41) ∧ idx < 4) ∨
  ((op = 0x20 ∨ op = 0x21) ∧ sel ≤ 16 ∧ idx = 0) ∨
  (op = 0x26 ∧ sel ≤ 7 ∧ idx = 0) ∨
  (op ∈ [0x22, 0x23, 0x24, 0x25, 0x30, 0x31, 0x32, 0x33, 0x34, 0x40, 0x47] ∧ sel = 0 ∧ idx = 0) ∨
  (op = 0x41 ∧ sel < 32 ∧ idx = 0) ∨
  (op ∈ [0x42, 0x43, 0x44, 0x45, 0x46, 0x48] ∧ sel = 0)

/-- `argc` argument records fit into the payload that is left (R96). -/
def RecordsFit : Nat → List Byte → Prop
  | 0, _ => True
  | argc + 1, p =>
    4 ≤ p.length ∧ 4 + leValue (p.take 4) ≤ p.length ∧ RecordsFit argc (p.drop (4 + leValue (p.take 4)))

/-- The slot holds this `Live` handle. -/
def Holds (s : State) (slot : BitVec 16) (h : Nat) (hd : Handle) : Prop :=
  s.fd[slot.toNat]? = some (some h) ∧ s.hp[h]? = some hd

/-- The slot is not below `fd_cap`, or it is `None`. -/
def NoFile (s : State) (slot : BitVec 16) : Prop := s.fd.length ≤ slot.toNat ∨ s.fd[slot.toNat]? = some none

/-- A handle as `HNEW` and `STDIO` create it. -/
def FreshHandle (r w k a i : Bool) : Handle :=
  { buf := [], pos := 0, readable := r, writable := w, seekable := k, appendonly := a, interactive := i }

/-- The capability flags of two handles agree. -/
def SameFlags (a b : Handle) : Prop :=
  a.readable = b.readable ∧ a.writable = b.writable ∧ a.seekable = b.seekable ∧ a.appendonly = b.appendonly ∧
    a.interactive = b.interactive

/-- The commands that look at or change the execution state. -/
def Instr.concernsEngine : Instr → Bool
  | .init _ | .exec _ | .stateget | .errget | .retget => true
  | _ => false

/-- The commands of the flags register (R150), and the two that hand the flags word to a collaborator. -/
def Instr.concernsFlags : Instr → Bool
  | .fgetCF | .fgetPF | .fgetAF | .fgetZF | .fgetSF | .fgetTF | .fgetIF | .fgetDF | .fgetOF | .fgetNT | .fgetRF
  | .fgetVM | .fgetAC | .fgetVIF | .fgetVIP | .fgetID | .fgetCT => true
  | .fassignCF _ | .fassignPF _ | .fassignAF _ | .fassignZF _ | .fassignSF _ | .fassignTF _ | .fassignIF _
  | .fassignDF _ | .fassignOF _ | .fassignNT _ | .fassignRF _ | .fassignVM _ | .fassignAC _ | .fassignVIF _
  | .fassignVIP _ | .fassignID _ | .fassignCT _ => true
  | .ioplget | .ioplassign _ | .flagsget | .flagsset _ => true
  | .ccB | .ccBE | .ccA | .ccAE | .ccL | .ccLE | .ccG | .ccGE => true
  | .init _ | .exec _ => true
  | _ => false

/-- The ten commands the instruction unit may not issue (R99). -/
def Instr.hostOnly : Instr → Bool
  | .init _ | .exec _ | .stateget | .errget | .retget | .stdio | .hnew _ | .install _ _ | .hfeed _ _ | .hdump _ => true
  | _ => false

/-- The two commands port HS accepts (R80, R99). -/
def Instr.handleSide : Instr → Bool
  | .hfeed _ _ | .hdump _ => true
  | _ => false

/-- Only commands on port HC stand in this part of the queue. -/
def OnlyHc (inputs : List HostInput) : Prop := ∀ x ∈ inputs, ∃ d, x = .hc d

/-- No command of port HS can be served during an `EXEC`: each one that waits stands behind a reset. -/
def NoHsWaits (inputs : List HostInput) : Prop :=
  ∀ before c after, inputs = before ++ .hs c :: after → .reset ∈ before

/-- What a call of `InsnStep` is given: the registers, `flags`, `pc`, `mem`, and of `fd` and `hp` exactly the occupied slots
with the flags of the handles they hold (R220, R221, R276). -/
def UnitSees : Prop :=
  ∀ s : State, s.prog.regs = s.regs ∧ s.prog.flags = s.flags ∧ s.prog.pc = s.pc ∧ s.prog.mem = s.mem ∧
    ∀ v : SlotView, v ∈ s.prog.slots ↔
      ∃ hd, s.fd[v.slot]? = some (some v.handle) ∧ s.hp[v.handle]? = some hd ∧ v.readable = hd.readable ∧
        v.writable = hd.writable ∧ v.seekable = hd.seekable ∧ v.appendonly = hd.appendonly ∧
        v.interactive = hd.interactive

/-- Every handle that stands in a slot of the first state stands in that slot of the second, with the same flags. -/
def SlotsWithin (s s' : State) : Prop :=
  ∀ (slot h : Nat) (hd : Handle), s.fd[slot]? = some (some h) → s.hp[h]? = some hd →
    ∃ hd', s'.fd[slot]? = some (some h) ∧ s'.hp[h]? = some hd' ∧ SameFlags hd hd'

/-- States that differ in what a call of `InsnStep` does not see (`xstate`, `init_failed`, `fd_cap`, `max_memory`,
`stack_size`, a buffer, a cursor, a handle that stands in no slot, and the model's own fields) give it the same (R220,
R221). -/
def UnitSeesNoMore : Prop :=
  ∀ s s' : State, s.regs = s'.regs → s.flags = s'.flags → s.pc = s'.pc → s.mem = s'.mem →
    SlotsWithin s s' → SlotsWithin s' s → s.prog = s'.prog

/-- A whole cycle goes the same way whatever `xstate`, `init_failed` and `stack_size` are (R220). -/
def CycleIgnoresTheEngineState : Prop :=
  ∀ (env : Env) (s t : State) (out : CycleOutcome) (x : XState) (f : Bool) (w : Word), cycle env s = (t, out) →
    cycle env { s with xstate := x, initFailed := f, stackSize := w } =
      ({ t with xstate := x, initFailed := f, stackSize := w }, out)

/-- One cycle is one call of `InsnStep` on what it sees of the program-visible state, with a fresh draw, at the point after
the commands of port HS that fall before it; what it does is run access by access (R220, R221). -/
def CycleRunsTheUnit : Prop :=
  ∀ (env : Env) (s t : State), t = hostPoint env s →
    cycle env s =
      runUnit env (env.insnStep t.prog t.draws) false { t with draws := t.draws + 1 }

/-- The end of a cycle: the state stays, with the unit's own outcome, or, when an access of it has failed, the forced one
(R220, R221). -/
def UnitEnds : Prop :=
  ∀ (env : Env) (out : CycleOutcome) (s : State),
    runUnit env (.done out) false s = (s, out) ∧ runUnit env (.done out) true s = (s, .fault .invalidMemoryAccess)

/-- A command on port IU is performed, and the unit goes on with its response (R99, R100). -/
def CommandAccess : Prop :=
  ∀ (env : Env) (c : Command) (k : Response → UnitProgram) (failed : Bool) (s t : State),
    t = performIu c (hostPoint env s) → runUnit env (.command c k) failed s = runUnit env (k t.resp) failed t

/-- Reading `pc` returns it and changes nothing; writing `pc` sets it and nothing else (R32). -/
def PcAccess : Prop :=
  ∀ (env : Env) (v : Word) (k : Word → UnitProgram) (k' : UnitProgram) (failed : Bool) (s : State),
    runUnit env (.readPc k) failed s = runUnit env (k s.pc) failed (hostPoint env s) ∧
    runUnit env (.writePc v k') failed s = runUnit env k' failed { hostPoint env s with pc := v }

/-- Growing a canonical image within `max_memory` puts the bytes behind its end and changes nothing else; beyond
`max_memory` nothing changes and the unit is told (R61). -/
def GrowAccess : Prop :=
  ∀ (env : Env) (bytes : List Byte) (k : Bool → UnitProgram) (failed : Bool) (s : State), s.mem.wf = true →
    (s.mem.size + bytes.length ≤ s.maxMemory.toNat → ∃ m : Memory,
      runUnit env (.memGrow bytes k) failed s = runUnit env (k true) failed { hostPoint env s with mem := m } ∧
      m.size = s.mem.size + bytes.length ∧ m.wf = true ∧ (∀ a < s.mem.size, m.byte a = s.mem.byte a) ∧
      ∀ i < bytes.length, m.byte (s.mem.size + i) = bytes.getD i 0) ∧
    (s.maxMemory.toNat < s.mem.size + bytes.length →
      runUnit env (.memGrow bytes k) failed s = runUnit env (k false) failed (hostPoint env s))

/-- Shrinking a canonical image keeps its first bytes and changes nothing else (R61). -/
def ShrinkAccess : Prop :=
  ∀ (env : Env) (size : Nat) (k : UnitProgram) (failed : Bool) (s : State), s.mem.wf = true → ∃ m : Memory,
    runUnit env (.memShrink size k) failed s = runUnit env k failed { hostPoint env s with mem := m } ∧
    m.size = min size s.mem.size ∧ m.wf = true ∧ ∀ a < m.size, m.byte a = s.mem.byte a

/-- Reads on slot 0 until one returns no byte, each chunk written to slot 1 in order (R279). -/
inductive Echo : State → State → Prop
  /-- a read of at least one byte's room that returns nothing ends it -/
  | stop {s t : State} {n : Word} (hn : n ≠ 0) (hread : Runs (.fread 0#16 n) s t) (hnone : t.resp.rpayload = []) :
      t.resp.status = .ok → Echo s t
  /-- a chunk is read and written -/
  | chunk {s t u v : State} {n : Word} (hread : Runs (.fread 0#16 n) s t) (hok : t.resp.status = .ok)
      (hsome : t.resp.rpayload ≠ []) (hwrite : Runs (.fwrite 1#16 t.resp.rpayload) t u) (hrest : Echo u v) : Echo s v

/-- The host has presented no reset. -/
def NoReset (s : State) : Prop := .reset ∉ s.inputs

/-- `n` steps lead from `s` to `t`. -/
def After : Nat → State → State → Prop
  | 0, s, t => t = s
  | n + 1, s, t => ∃ u, step s = .next u ∧ After n u t

end Sys2Proof.Claims

open Sys2Proof Sys2Proof.Machine Sys2Proof.Claims

/-- Decoding the encoding of a well-formed command gives it back. For every well-formed instruction, with every
operand at every value, the decoder reads its encoded command as that instruction. (R82, R83, R84, R87, R88, R89, R90, R94) -/
def Obligations.DecodeOfEncodeIsTheInstruction : Prop :=
  ∀ i : Instr, i.wellFormed = true → decode (encode i) = .ok i

/-- A command word has one meaning. Whatever the decoder reads from a command is well formed, and its encoding has
the very command word that was read: no bit of a legal word is dropped. (R82, R83, R92) -/
def Obligations.EncodeOfDecodeIsTheWord : Prop :=
  ∀ (c : Command) (i : Instr), decode c = .ok i → i.wellFormed = true ∧ (encode i).cmd = c.cmd

/-- The decoder accepts exactly the words of the tables. A command is read as an instruction if and only if its op,
sel and idx fields are inside the opcode, view, flag-id and condition-id tables with every must-be-zero field 0
and high-byte views on registers 0 to 3. (R82, R83, R87, R88, R89, R90, R92) -/
def Obligations.LegalWordsAreExactlyTheTables : Prop :=
  ∀ c : Command, (∃ i, decode c = .ok i) ↔
    LegalWord (c.cmd.toNat / 2 ^ 24) (c.cmd.toNat / 2 ^ 16 % 2 ^ 8) (c.cmd.toNat % 2 ^ 16)

/-- The worked encodings of R101. RSET.U8H x1, 0xAA; CC.BE; INSTALL 1, h2 and HNEW ri are read from and written as
the words R101 gives. (R101) -/
def Obligations.WorkedEncodings : Prop :=
  decode { cmd := 0x11400001#32, wdata := 0xAA#64 } = .ok (.rsetU8H 1 0xAA#64) ∧
  encode (.rsetU8H 1 0xAA#64) = { cmd := 0x11400001#32, wdata := 0xAA#64 } ∧
  decode { cmd := 0x26010000#32 } = .ok .ccBE ∧ encode .ccBE = { cmd := 0x26010000#32 } ∧
  decode { cmd := 0x42000001#32, wdata := 2#64 } = .ok (.install 1#16 2#64) ∧
  encode (.install 1#16 2#64) = { cmd := 0x42000001#32, wdata := 2#64 } ∧
  decode { cmd := 0x41110000#32 } = .ok (.hnew 0b10001#5) ∧
  encode (.hnew 0b10001#5) = { cmd := 0x41110000#32 }

/-- Examples of the written syntax. Seven of the examples of R97 are the written forms of the commands they encode. (R97, R98) -/
def Obligations.WrittenForms : Prop :=
  written (.rsetU8H 1 0xAA#64) = "RSET.U8H x1, 0xAA" ∧ written (.rgetI32 0) = "RGET.I32 x0" ∧
  written (.fassignZF 1#64) = "FASSIGN.ZF 1" ∧ written (.exec 100#64) = "EXEC 100" ∧
  written (.hnew 0b10001#5) = "HNEW ri" ∧ written (.install 1#16 2#64) = "INSTALL 1, h2" ∧
  written (.fwrite 1#16 [0x68#8, 0x69#8, 0x0A#8]) = "FWRITE 1, \"hi\\n\""

/-- The INIT operand block reads back. For operands whose argument count and argument lengths fit their 32-bit
fields, the payload laid out as R96 says is read back as the same operands: absent ones absent, the rest of the
payload the Executable. (R95, R96) -/
def Obligations.InitPayloadRoundTrip : Prop :=
  ∀ ops : InitOperands, (ops.args.getD []).length < 2 ^ 32 → (∀ arg ∈ ops.args.getD [], arg.length < 2 ^ 32) →
    initOperands (initPayload ops) = some ops

/-- When an INIT payload is malformed. The payload is malformed exactly when it is shorter than 29 bytes, when bits
7:4 of the presence mask are not 0, when bit 3 is 0 and argc is not 0, or when an argument record runs past its
end; INIT then answers BadCommand and changes nothing. (R96, R92) -/
def Obligations.InitPayloadMalformedExactlyWhen : Prop :=
  (∀ p : List Byte, initOperands p = none ↔
    p.length < 29 ∨ 16 ≤ (p.headD 0).toNat ∨
    ((p.headD 0).toNat / 8 % 2 = 0 ∧ leValue ((p.drop 25).take 4) ≠ 0) ∨
    ¬ RecordsFit (leValue ((p.drop 25).take 4)) (p.drop 29)) ∧
  ∀ (p : List Byte) (s : State), initOperands p = none →
    exec (.init p) s = .next { s with resp := { status := .badCommand } }

/-- A step runs the decoded command. When the oldest thing presented is a command on port HC that decodes to an
instruction, the step is exec of that instruction at the state without that input, its response then delivered
on HC. How the host presents commands is the model's choice (logs 10, 11). (R80, R81, R93) -/
def Obligations.StepRunsTheDecodedCommand : Prop :=
  ∀ (s : State) (c : Command) (rest : List HostInput) (i : Instr), s.inputs = .hc c :: rest → decode c = .ok i →
    step s = (match exec i { s with inputs := rest } with
      | .next t => .next { t with outputs := t.outputs ++ [.hc t.resp] }
      | .fault f => .fault f
      | .refused r => .refused r)

/-- An illegal word is answered BadCommand and changes nothing. When the oldest thing presented is a command on port
HC that does not decode, the step answers BadCommand on HC; nothing of the block changes. How the host presents
commands is the model's choice (log 11). (R92, R93) -/
def Obligations.IllegalWordAnswersBadCommand : Prop :=
  ∀ (s : State) (c : Command) (rest : List HostInput) (e : Reject), s.inputs = .hc c :: rest → decode c = .error e →
    step s = .next { s with inputs := rest, resp := { status := .badCommand },
                            outputs := s.outputs ++ [.hc { status := .badCommand }] }

/-- The presented word is the next command served. After withFetchWord with a word that decodes, the next step is
exec of the decoded instruction at the state itself, and its response is delivered on HC. How the host presents
commands is the model's choice (log 11). (R80, R81) -/
def Obligations.FetchedWordIsServedNext : Prop :=
  ∀ (s : State) (w : Nat) (i : Instr), decodeTableWord 32 w = some i →
    step (s.withFetchWord 32 w) = (match exec i s with
      | .next t => .next { t with outputs := t.outputs ++ [.hc t.resp] }
      | .fault f => .fault f
      | .refused r => .refused r)

/-- The block never faults and never refuses. From every state the step answers a next state: command errors are
statuses and runtime faults are captured. (R86, R301, R303, R342) -/
def Obligations.EveryStepCompletes : Prop :=
  ∀ s : State, ∃ t, step s = .next t

/-- The twelve RGET commands. Each RGET.<view> is named by its words for every register of its domain whatever the
operands, answers OK with exactly the bits of its view, sign-extended for a signed view and zero-extended
otherwise, and changes nothing. The spec marks as its own decision: the float views of R115 and R118: D8. (R113, R114, R115, R116, R117, R118, R119, R120, R121, R122, R123, R124) -/
def Obligations.RgetReadsItsView : Prop :=
  ReadsView .rgetU64 0x10000000 16 (fun x => x) ∧
  ReadsView .rgetI64 0x10010000 16 (fun x => x) ∧
  ReadsView .rgetF64 0x10020000 16 (fun x => x) ∧
  ReadsView .rgetU32 0x10100000 16 (fun x => (x.extractLsb' 0 32).setWidth 64) ∧
  ReadsView .rgetI32 0x10110000 16 (fun x => (x.extractLsb' 0 32).signExtend 64) ∧
  ReadsView .rgetF32 0x10120000 16 (fun x => (x.extractLsb' 0 32).setWidth 64) ∧
  ReadsView .rgetU16 0x10200000 16 (fun x => (x.extractLsb' 0 16).setWidth 64) ∧
  ReadsView .rgetI16 0x10210000 16 (fun x => (x.extractLsb' 0 16).signExtend 64) ∧
  ReadsView .rgetU8 0x10300000 16 (fun x => (x.extractLsb' 0 8).setWidth 64) ∧
  ReadsView .rgetI8 0x10310000 16 (fun x => (x.extractLsb' 0 8).signExtend 64) ∧
  ReadsView .rgetU8H 0x10400000 4 (fun x => (x.extractLsb' 8 8).setWidth 64) ∧
  ReadsView .rgetI8H 0x10410000 4 (fun x => (x.extractLsb' 8 8).signExtend 64)

/-- The twelve RSET commands. Each RSET.<view> is named by its words for every register of its domain, writes
exactly the bits of its view from the low bits of wdata, keeps the other bits of the register, every other
register and everything else, and answers OK. The spec marks as its own decision: the float views of R127 and
R130: D8. (R125, R126, R127, R128, R129, R130, R131, R132, R133, R134, R135, R136) -/
def Obligations.RsetMergesItsView : Prop :=
  MergesView .rsetU64 0x11000000 16 0 64 ∧
  MergesView .rsetI64 0x11010000 16 0 64 ∧
  MergesView .rsetF64 0x11020000 16 0 64 ∧
  MergesView .rsetU32 0x11100000 16 0 32 ∧
  MergesView .rsetI32 0x11110000 16 0 32 ∧
  MergesView .rsetF32 0x11120000 16 0 32 ∧
  MergesView .rsetU16 0x11200000 16 0 16 ∧
  MergesView .rsetI16 0x11210000 16 0 16 ∧
  MergesView .rsetU8 0x11300000 16 0 8 ∧
  MergesView .rsetI8 0x11310000 16 0 8 ∧
  MergesView .rsetU8H 0x11400000 4 8 8 ∧
  MergesView .rsetI8H 0x11410000 4 8 8

/-- The high-byte views exist for registers 0 to 3 only. For RGET.U8H, RGET.I8H, RSET.U8H and RSET.I8H and each
register index, the word is read as that command of that register, an RSET with wdata, when the index is below
4; for indices 4 to 15 the word is illegal, and presented on port HC it is answered BadCommand with nothing of
the block changed. The spec marks as its own decision: D5. How the host presents commands is the model's choice
(log 11). (R24, R88, R92) -/
def Obligations.HighByteViewsOfFourRegisters : Prop :=
  ∀ (reg : RegIdx) (wdata : Word) (payload : List Byte) (word : Nat) (i : Instr),
    (word, i) ∈ [(0x10400000, .rgetU8H reg), (0x10410000, .rgetI8H reg), (0x11400000, .rsetU8H reg wdata),
                 (0x11410000, .rsetI8H reg wdata)] →
    let c : Command := { cmd := BitVec.ofNat 32 (word + reg.val), wdata := wdata, payload := payload }
    (reg.val < 4 → decode c = .ok i) ∧
    (4 ≤ reg.val → decode c = .error .highByteRegister ∧
      ∀ (s : State) (rest : List HostInput), s.inputs = .hc c :: rest →
        step s = .next { s with inputs := rest, resp := { status := .badCommand },
                                outputs := s.outputs ++ [.hc { status := .badCommand }] })

/-- The aliasing law of any two views, bit by bit. After RSET.V then RGET.W of the same register, bit j of the field
read is the written value's bit where W overlaps V and the old register's bit where it does not; bits above the
field are its extension. After RSET.V, RGET.W of every other register answers as before. The spec marks as its
own decision: D6, D7 (the extension). (R25, R85, R111, R112, R137) -/
def Obligations.ViewsShareOneStorage : Prop :=
  ∀ (V W : View) (reg other : RegIdx) (value : Word) (s t u r r' : State),
    Runs (.rset V reg value) s t → Runs (.rget W reg) t u → Runs (.rget W other) s r → Runs (.rget W other) t r' →
    (∀ j < 64, u.resp.rdata.getLsbD j =
      let bit := fun k => if viewLow V ≤ k ∧ k < viewLow V + viewWidth V then value.getLsbD (k - viewLow V)
        else s.regs[reg].getLsbD k
      if j < viewWidth W then bit (viewLow W + j) else viewSigned W && bit (viewLow W + viewWidth W - 1)) ∧
    (other ≠ reg → r'.resp = r.resp)

/-- Repeating a register command, and writing back what was read. RGET twice answers the same twice; RSET twice with
the same operands leaves the same state as once; RSET.V of what RGET.V returned leaves every register and
everything else but the response as it was. (R139) -/
def Obligations.RegisterCommandsRepeat : Prop :=
  ∀ (V : View) (reg : RegIdx) (value : Word) (s t u : State),
    (Runs (.rget V reg) s t → Runs (.rget V reg) t u → u = t) ∧
    (Runs (.rset V reg value) s t → Runs (.rset V reg value) t u → u = t) ∧
    (Runs (.rget V reg) s t → Runs (.rset V reg t.resp.rdata) t u → u = { s with resp := {} })

/-- FGET of CF, PF, AF, ZF, SF, TF, IF, DF, OF. Each FGET is named by its word, answers its flag's bit as 0 or 1,
and changes nothing. The bits are the default positions the rules themselves give (R27, D9; log 8). (R152, R153, R154, R155, R156, R157, R158, R159, R160) -/
def Obligations.FgetReadsTheArithmeticFlags : Prop :=
  ReadsFlag .fgetCF 0x20000000 0 ∧
  ReadsFlag .fgetPF 0x20010000 2 ∧
  ReadsFlag .fgetAF 0x20020000 4 ∧
  ReadsFlag .fgetZF 0x20030000 6 ∧
  ReadsFlag .fgetSF 0x20040000 7 ∧
  ReadsFlag .fgetTF 0x20050000 8 ∧
  ReadsFlag .fgetIF 0x20060000 9 ∧
  ReadsFlag .fgetDF 0x20070000 10 ∧
  ReadsFlag .fgetOF 0x20080000 11

/-- FGET of NT, RF, VM, AC, VIF, VIP, ID, CT. Each FGET is named by its word, answers its flag's bit as 0 or 1, and
changes nothing. The bits are the default positions the rules themselves give (R27, D9; log 8). (R161, R162, R163, R164, R165, R166, R167, R168) -/
def Obligations.FgetReadsTheSystemFlags : Prop :=
  ReadsFlag .fgetNT 0x20090000 14 ∧
  ReadsFlag .fgetRF 0x200a0000 16 ∧
  ReadsFlag .fgetVM 0x200b0000 17 ∧
  ReadsFlag .fgetAC 0x200c0000 18 ∧
  ReadsFlag .fgetVIF 0x200d0000 19 ∧
  ReadsFlag .fgetVIP 0x200e0000 20 ∧
  ReadsFlag .fgetID 0x200f0000 21 ∧
  ReadsFlag .fgetCT 0x20100000 32

/-- FASSIGN of CF, PF, AF, ZF, SF, TF, IF, DF, OF. Each FASSIGN is named by its word, sets its flag's bit to
wdata[0], keeps the other 63 bits of flags and everything else, and answers OK. The bits are the default
positions the rules themselves give (R27, D9; log 8). (R169, R170, R171, R172, R173, R174, R175, R176, R177) -/
def Obligations.FassignWritesTheArithmeticFlags : Prop :=
  AssignsFlag .fassignCF 0x21000000 0 ∧
  AssignsFlag .fassignPF 0x21010000 2 ∧
  AssignsFlag .fassignAF 0x21020000 4 ∧
  AssignsFlag .fassignZF 0x21030000 6 ∧
  AssignsFlag .fassignSF 0x21040000 7 ∧
  AssignsFlag .fassignTF 0x21050000 8 ∧
  AssignsFlag .fassignIF 0x21060000 9 ∧
  AssignsFlag .fassignDF 0x21070000 10 ∧
  AssignsFlag .fassignOF 0x21080000 11

/-- FASSIGN of NT, RF, VM, AC, VIF, VIP, ID, CT. Each FASSIGN is named by its word, sets its flag's bit to wdata[0],
keeps the other 63 bits of flags and everything else, and answers OK. The bits are the default positions the
rules themselves give (R27, D9; log 8). (R178, R179, R180, R181, R182, R183, R184, R185) -/
def Obligations.FassignWritesTheSystemFlags : Prop :=
  AssignsFlag .fassignNT 0x21090000 14 ∧
  AssignsFlag .fassignRF 0x210a0000 16 ∧
  AssignsFlag .fassignVM 0x210b0000 17 ∧
  AssignsFlag .fassignAC 0x210c0000 18 ∧
  AssignsFlag .fassignVIF 0x210d0000 19 ∧
  AssignsFlag .fassignVIP 0x210e0000 20 ∧
  AssignsFlag .fassignID 0x210f0000 21 ∧
  AssignsFlag .fassignCT 0x21100000 32

/-- IOPLGET and IOPLASSIGN. IOPLGET answers bits 13:12 of flags. IOPLASSIGN with wdata[7:0] at most 3 writes exactly
those two bits; with a greater value it answers OutOfBounds with the value and changes nothing. The bits are the
default positions the rules themselves give (R27, D9; log 8). The spec marks as its own decision: D11. (R186, R187) -/
def Obligations.IoplFieldIsReadAndBounded : Prop :=
  Names 0x22000000 (fun _ _ => .ioplget) ∧ Names 0x23000000 (fun wdata _ => .ioplassign wdata) ∧
  (∀ s : State, exec .ioplget s = .next { s with resp := { rdata := (s.flags.extractLsb' 12 2).setWidth 64 } }) ∧
  (∀ (v : Word) (s : State), 3 < v.toNat % 256 →
    exec (.ioplassign v) s =
      .next { s with resp := { status := .outOfBounds, rdata := BitVec.ofNat 64 (v.toNat % 256) } }) ∧
  ∀ (v : Word) (s : State), v.toNat % 256 ≤ 3 → ∃ f : Word,
    exec (.ioplassign v) s = .next { s with flags := f, resp := {} } ∧
    ∀ i < 64, f.getLsbD i = if 12 ≤ i ∧ i < 14 then v.getLsbD (i - 12) else s.flags.getLsbD i

/-- FLAGSGET and FLAGSSET. FLAGSGET answers all 64 bits of flags and changes nothing; FLAGSSET replaces all 64 bits,
none masked. The spec marks as its own decision: D10. (R188, R189) -/
def Obligations.FlagsWordIsReadAndReplaced : Prop :=
  Names 0x24000000 (fun _ _ => .flagsget) ∧ Names 0x25000000 (fun wdata _ => .flagsset wdata) ∧
  (∀ s : State, exec .flagsget s = .next { s with resp := { rdata := s.flags } }) ∧
  ∀ (v : Word) (s : State), exec (.flagsset v) s = .next { s with flags := v, resp := {} }

/-- The eight condition codes. Each CC is named by its word, answers its formula of CF, ZF, SF, OF as 0 or 1, and
changes nothing. The formulas of AE, G and GE are the inference the spec marks as derived from R192 (R199, R202,
R203). The bits are the default positions the rules themselves give (R27, D9; log 8). (R192, R196, R197, R198, R199, R200, R201, R202, R203) -/
def Obligations.ConditionCodes : Prop :=
  ReadsCondition .ccB 0x26000000 (fun cf _ _ _ => cf) ∧
  ReadsCondition .ccBE 0x26010000 (fun cf zf _ _ => cf || zf) ∧
  ReadsCondition .ccA 0x26020000 (fun cf zf _ _ => !(cf || zf)) ∧
  ReadsCondition .ccAE 0x26030000 (fun cf _ _ _ => !cf) ∧
  ReadsCondition .ccL 0x26040000 (fun _ _ sf ov => xor sf ov) ∧
  ReadsCondition .ccLE 0x26050000 (fun _ zf sf ov => xor sf ov || zf) ∧
  ReadsCondition .ccG 0x26060000 (fun _ zf sf ov => !(xor sf ov || zf)) ∧
  ReadsCondition .ccGE 0x26070000 (fun _ _ sf ov => !xor sf ov)

/-- Complements and implications of the condition codes. For every flags word: AE is not B, A is not BE, GE is not
L, G is not LE; B implies BE, A implies AE, L implies LE, G implies GE; and two flags words that agree on CF,
ZF, SF, OF give the same eight codes. (R193) -/
def Obligations.ConditionCodesPairAndImply : Prop :=
  (∀ s b be a ae l le g ge : State, Runs .ccB s b → Runs .ccBE s be → Runs .ccA s a → Runs .ccAE s ae →
    Runs .ccL s l → Runs .ccLE s le → Runs .ccG s g → Runs .ccGE s ge →
    ae.resp.rdata = 1 - b.resp.rdata ∧ a.resp.rdata = 1 - be.resp.rdata ∧
    ge.resp.rdata = 1 - l.resp.rdata ∧ g.resp.rdata = 1 - le.resp.rdata ∧
    (b.resp.rdata = 1 → be.resp.rdata = 1) ∧ (a.resp.rdata = 1 → ae.resp.rdata = 1) ∧
    (l.resp.rdata = 1 → le.resp.rdata = 1) ∧ (g.resp.rdata = 1 → ge.resp.rdata = 1)) ∧
  ∀ (c : CondCode) (f g : Word), (∀ i ∈ [0, 6, 7, 11], f.getLsbD i = g.getLsbD i) → condition c f = condition c g

/-- A flag assignment changes one flag. After FASSIGN.f, FGET.f answers wdata[0], FGET of any other flag and IOPLGET
answer as before; after a successful IOPLASSIGN, IOPLGET answers the value and no FGET changes. (R190, R151, R187) -/
def Obligations.FlagAssignmentsAreIndependent : Prop :=
  (∀ (f g : Sys2Proof.Flag) (v : Word) (s t a b c d : State), Runs (.fassign f v) s t → Runs (.fget g) s a → Runs (.fget g) t b →
    Runs .ioplget s c → Runs .ioplget t d →
    (f = g → b.resp.rdata = if v.getLsbD 0 then 1 else 0) ∧ (f ≠ g → b.resp = a.resp) ∧ d.resp = c.resp) ∧
  ∀ (g : Sys2Proof.Flag) (v : Word) (s t a b d : State), v.toNat % 256 ≤ 3 → Runs (.ioplassign v) s t → Runs (.fget g) s a →
    Runs (.fget g) t b → Runs .ioplget t d → b.resp = a.resp ∧ d.resp.rdata = BitVec.ofNat 64 (v.toNat % 256)

/-- A successful INIT. With a well-formed payload in Uninitialized without the latch, max_files at most 65536 and a
loader result that fits the limits: registers, flags, pc and memory (an image in canonical form) are what the
loader returned, the limits are latched, the table has max_files empty slots, the state is Running, the handle
pool and everything else is unchanged, and the answer is OK. The model's choices: a loader result beyond the
limits is an Err (log 6), absent operands take free defaults (log 7), the canonical form of the image (log 13). (R45, R222, R233, R5, R36) -/
def Obligations.InitLoadsTheImage : Prop :=
  Names 0x30000000 (fun _ payload => .init payload) ∧
  (∀ (bytes : List Byte) (s : State), exec (.init bytes) s = .next (initIn Config.env bytes s)) ∧
  ∀ (env : Env) (bytes : List Byte) (ops : InitOperands) (r : LoadResult) (mm ss mf : Word) (s : State),
    initOperands bytes = some ops → s.xstate = .uninitialized → s.initFailed = false →
    mm = ops.maxMemory.getD env.maxMemory → ss = ops.stackSize.getD env.stackSize →
    mf = ops.maxFiles.getD env.maxFiles → mf.toNat ≤ 65536 →
    env.load { exe := ops.exe, maxMemory := mm, stackSize := ss, maxFiles := mf, args := ops.args.getD env.args } =
      some r →
    r.image.length ≤ mm.toNat → ss.toNat ≤ r.image.length →
    ∃ m : Memory,
      initIn env bytes s =
        { s with regs := r.regs, flags := r.flags, pc := r.pc, mem := m, maxMemory := mm, stackSize := ss,
                 fd := List.replicate mf.toNat none, xstate := .running, resp := {} } ∧
      m.size = r.image.length ∧ m.wf = true ∧ ∀ a < r.image.length, m.byte a = r.image.getD a 0

/-- A failed INIT sets the latch and nothing else. With a well-formed payload in Uninitialized without the latch,
when max_files exceeds 65536 or the loader answers Err, or its image does not fit max_memory or has no room for
the stack region: InitError, only init_failed changes; after that every INIT with a well-formed payload answers
BadState and every EXEC answers (0, NotRunning), nothing else changing. The spec marks as its own decision: D17,
D18. That a loader result beyond the limits of R233 counts as Err is the model's choice (log 6). (R309, R222, R302, R233) -/
def Obligations.InitFailureLatches : Prop :=
  (∀ (bytes : List Byte) (s : State), exec (.init bytes) s = .next (initIn Config.env bytes s)) ∧
  ∀ (env : Env) (bytes : List Byte) (ops : InitOperands) (s t : State),
    initOperands bytes = some ops → s.xstate = .uninitialized → s.initFailed = false →
    (65536 < (ops.maxFiles.getD env.maxFiles).toNat ∨
      env.load { exe := ops.exe, maxMemory := ops.maxMemory.getD env.maxMemory,
                 stackSize := ops.stackSize.getD env.stackSize, maxFiles := ops.maxFiles.getD env.maxFiles,
                 args := ops.args.getD env.args } = none ∨
      ∃ r : LoadResult,
        env.load { exe := ops.exe, maxMemory := ops.maxMemory.getD env.maxMemory,
                   stackSize := ops.stackSize.getD env.stackSize, maxFiles := ops.maxFiles.getD env.maxFiles,
                   args := ops.args.getD env.args } = some r ∧
        ((ops.maxMemory.getD env.maxMemory).toNat < r.image.length ∨
         r.image.length < (ops.stackSize.getD env.stackSize).toNat)) →
    t = { s with initFailed := true, resp := { status := .initError } } →
    initIn env bytes s = t ∧
    (∀ bytes' ops', initOperands bytes' = some ops' → initIn env bytes' t = { t with resp := { status := .badState } }) ∧
    ∀ budget : Word, exec (.exec budget) t = .next { t with resp := { rdata := 0, rtag := 0 } }

/-- INIT outside a fresh Uninitialized is refused. With a well-formed payload, in Running, Terminated or Error, or
with the latch set, INIT answers BadState and changes nothing. (R222, R229, R35) -/
def Obligations.InitOnlyFromFreshReset : Prop :=
  ∀ (bytes : List Byte) (ops : InitOperands) (s : State), initOperands bytes = some ops →
    (s.xstate ≠ .uninitialized ∨ s.initFailed = true) →
    exec (.init bytes) s = .next { s with resp := { status := .badState } }

/-- EXEC runs cycles until the budget is spent or an outcome ends it. Not Running: (0, NotRunning), nothing changes.
Running, with k cycles that go on from the state, one after another: budget k answers (k, MaxCycles) in the last
state; a greater budget whose next cycle forfeits, exits or faults answers k+1 and that stop reason in the state
the cycle left, Terminated(rc) and Error(k) set. The spec marks as its own decision: D14, D15 (the counting and
the budget corners). (R223) -/
def Obligations.ExecFollowsTheOutcomes : Prop :=
  Names 0x31000000 (fun wdata _ => .exec wdata) ∧
  (∀ (b : Word) (s : State), exec (.exec b) s = .next (execIn Config.env b s)) ∧
  (∀ (env : Env) (b : Word) (s : State), s.xstate ≠ .running → execIn env b s = { s with resp := { rdata := 0, rtag := 0 } }) ∧
  ∀ (env : Env) (b : Word) (σ : Nat → State) (k : Nat), (σ 0).xstate = .running →
    (∀ i < k, cycle env (σ i) = (σ (i + 1), .goOn)) →
    (b.toNat = k → execIn env b (σ 0) = { σ k with resp := { rdata := b, rtag := 1 } }) ∧
    (k < b.toNat → ∀ u : State,
      (cycle env (σ k) = (u, .forfeit) →
        execIn env b (σ 0) = { u with resp := { rdata := BitVec.ofNat 64 (k + 1), rtag := 2 } }) ∧
      (∀ rc, cycle env (σ k) = (u, .exit rc) →
        execIn env b (σ 0) =
          { u with xstate := .terminated rc, resp := { rdata := BitVec.ofNat 64 (k + 1), rtag := 3 } }) ∧
      ∀ f, cycle env (σ k) = (u, .fault f) →
        execIn env b (σ 0) =
          { u with xstate := .error f, resp := { rdata := BitVec.ofNat 64 (k + 1), rtag := 4 } })

/-- Cycle accounting of EXEC. From Running, EXEC answers OK; the consumed count is at most the budget; MaxCycles
means the whole budget was consumed and the state is still Running; ForfeitTimeslot, Terminated and Error mean
at least one cycle was consumed, with the state Running, Terminated(rc), Error(k) in turn; there is no other
stop reason. (R227) -/
def Obligations.ConsumedCyclesAreAccounted : Prop :=
  (∀ (b : Word) (s : State), exec (.exec b) s = .next (execIn Config.env b s)) ∧
  ∀ (env : Env) (b : Word) (s t : State), s.xstate = .running → t = execIn env b s →
    t.resp.status = .ok ∧ t.resp.rdata.toNat ≤ b.toNat ∧
    ((t.resp.rtag = 1 ∧ t.resp.rdata = b ∧ t.xstate = .running) ∨
     (t.resp.rtag = 2 ∧ 1 ≤ t.resp.rdata.toNat ∧ t.xstate = .running) ∨
     (t.resp.rtag = 3 ∧ 1 ≤ t.resp.rdata.toNat ∧ ∃ rc, t.xstate = .terminated rc) ∨
     (t.resp.rtag = 4 ∧ 1 ≤ t.resp.rdata.toNat ∧ ∃ k, t.xstate = .error k))

/-- The splitting law of EXEC. When EXEC a answers (a, MaxCycles), EXEC b issued next answers (n, r) and leaves the
state in which one EXEC a+b would have answered (a+n, r), when a+b is below 2^64; also with host commands on
port HS falling in at the same points. (R238) -/
def Obligations.ExecSplits : Prop :=
  ∀ (env : Env) (a b : Word) (s : State), s.xstate = .running → a.toNat + b.toNat < 2 ^ 64 →
    (execIn env a s).resp.rtag = 1 →
    execIn env (a + b) s =
      { execIn env b (execIn env a s) with
        resp := { rdata := a + (execIn env b (execIn env a s)).resp.rdata,
                  rtag := (execIn env b (execIn env a s)).resp.rtag } }

/-- Taking a runtime fault. When the next cycle of a Running engine ends in Fault(k) and the budget is not 0: the
state the cycle returned is kept, xstate becomes Error(k), EXEC answers (1, Error); then STATEGET answers 3 with
the code, ERRGET answers Some(k), RETGET answers None, and every further EXEC answers (0, NotRunning) and
changes nothing. The spec marks as its own decision: D14, D16. (R304, R228, R307) -/
def Obligations.FaultIsCaptured : Prop :=
  ∀ (env : Env) (b : Word) (s u t : State) (k : FaultKind), s.xstate = .running → 0 < b.toNat →
    cycle env s = (u, .fault k) → t = execIn env b s →
    t = { u with xstate := .error k, resp := { rdata := 1, rtag := 4 } } ∧
    exec .stateget t = .next { t with resp := { rtag := 3, rdata := (faultCode k).setWidth 64 } } ∧
    exec .errget t = .next { t with resp := { rtag := 1, rdata := (faultCode k).setWidth 64 } } ∧
    exec .retget t = .next { t with resp := { rtag := 0, rdata := 0 } } ∧
    ∀ b' : Word, exec (.exec b') t = .next { t with resp := { rdata := 0, rtag := 0 } }

/-- STATEGET, ERRGET and RETGET. Each is named by its word, changes nothing, and answers by the execution state: its
code with the sign-extended return code or the fault code; Some(fault) in Error only; Some(return code) in
Terminated only. The spec marks as its own decision: D3. (R224, R225, R226) -/
def Obligations.StateInspection : Prop :=
  Names 0x32000000 (fun _ _ => .stateget) ∧ Names 0x33000000 (fun _ _ => .errget) ∧
  Names 0x34000000 (fun _ _ => .retget) ∧
  ∀ s : State,
    exec .stateget s = .next { s with resp := (match s.xstate with
      | .uninitialized => { rtag := 0, rdata := 0 }
      | .running => { rtag := 1, rdata := 0 }
      | .terminated rc => { rtag := 2, rdata := rc.signExtend 64 }
      | .error k => { rtag := 3, rdata := (faultCode k).setWidth 64 }) } ∧
    exec .errget s = .next { s with resp := (match s.xstate with
      | .error k => { rtag := 1, rdata := (faultCode k).setWidth 64 }
      | _ => { rtag := 0, rdata := 0 }) } ∧
    exec .retget s = .next { s with resp := (match s.xstate with
      | .terminated rc => { rtag := 1, rdata := rc.signExtend 64 }
      | _ => { rtag := 0, rdata := 0 }) }

/-- Fault kinds are the codes 1 to 255. No fault kind has code 0, two kinds with one code are one kind, every code
but 0 is a kind, and the three named kinds have codes 1, 2, 3. (R91, R300) -/
def Obligations.FaultKindsAreTheNonzeroCodes : Prop :=
  (∀ k, faultCode k ≠ 0) ∧ (∀ k k', faultCode k = faultCode k' → k = k') ∧ (∀ c, c ≠ 0 → ∃ k, faultCode k = c) ∧
  faultCode .invalidMemoryAccess = 1 ∧ faultCode .illegalInstruction = 2 ∧ faultCode .arithmeticFault = 3

/-- The transition table of the execution state. In one step the execution state changes only by a reset event (to
Uninitialized), by an INIT on HC from Uninitialized without the latch (to Running), or by an EXEC on HC from
Running (to Terminated or Error). (R229, R33) -/
def Obligations.ExecutionStateTransitions : Prop :=
  ∀ s t : State, step s = .next t →
    t.xstate = s.xstate ∨
    (∃ rest, s.inputs = .reset :: rest ∧ t.xstate = .uninitialized) ∨
    (∃ c rest bytes, s.inputs = .hc c :: rest ∧ decode c = .ok (.init bytes) ∧ s.xstate = .uninitialized ∧
      s.initFailed = false ∧ t.xstate = .running) ∨
    (∃ c rest b, s.inputs = .hc c :: rest ∧ decode c = .ok (.exec b) ∧ s.xstate = .running ∧
      ((∃ rc, t.xstate = .terminated rc) ∨ ∃ k, t.xstate = .error k))

/-- Terminated and Error are left only by reset. In any number of steps over inputs that hold no reset, a Terminated
or Error execution state stays exactly as it is, and so do pc and the memory image. (R33, R228, R307, R330) -/
def Obligations.TerminalStatesAreSticky : Prop :=
  ∀ (n : Nat) (s t : State), NoReset s → ((∃ rc, s.xstate = .terminated rc) ∨ ∃ k, s.xstate = .error k) →
    After n s t → t.xstate = s.xstate ∧ t.pc = s.pc ∧ t.mem = s.mem

/-- What the instruction unit does not see and cannot change. A call of InsnStep is given the registers, flags, pc,
mem and exactly the occupied slots with their handles' flags: not xstate, init_failed, fd_cap, max_memory,
stack_size, no buffer, no cursor, no handle that stands in no slot. A whole cycle goes the same way whatever
xstate, init_failed and stack_size are. One cycle, whatever the instruction unit does and whatever host commands
fall into it, leaves xstate, init_failed, max_memory, stack_size and fd_cap as they were. What of fd and hp
InsnStep is given is the model's reading of R220, R221 and R276 (log 18). (R220, R221, R276) -/
def Obligations.CycleKeepsTheEngineState : Prop :=
  UnitSees ∧ UnitSeesNoMore ∧ CycleIgnoresTheEngineState ∧
  ∀ (env : Env) (s t : State) (out : CycleOutcome), cycle env s = (t, out) →
    t.xstate = s.xstate ∧ t.initFailed = s.initFailed ∧ t.maxMemory = s.maxMemory ∧ t.stackSize = s.stackSize ∧
    t.fdCap = s.fdCap

/-- A cycle keeps the image within max_memory. From an image in canonical form with mem_size at most max_memory, one
cycle leaves an image in canonical form with mem_size at most the same max_memory. How an attempt to grow past
max_memory ends is the model's choice (log 15). (R61, R221) -/
def Obligations.CycleKeepsTheImageInBounds : Prop :=
  ∀ (env : Env) (s t : State) (out : CycleOutcome), cycle env s = (t, out) → s.mem.wf = true →
    s.mem.size ≤ s.maxMemory.toNat → t.mem.wf = true ∧ t.mem.size ≤ s.maxMemory.toNat

/-- A failed MemRead or MemWrite forces InvalidMemoryAccess. A read or write that does not lie wholly in the image
does not happen: the instruction unit is told, and goes on in the state in which only the commands of port HS
that fall before the access were served, the image as it was; whatever the unit does afterwards the outcome of
the cycle is Fault(InvalidMemoryAccess). That the unit may go on after a failed access, with the outcome forced,
is the model's choice (log 14), and so are the points of port HS (log 9). (R62, R71, R221) -/
def Obligations.FailedAccessForcesTheFault : Prop :=
  (∀ (m : Memory) (addr v : Word) (n : AccessWidth), m.size < addr.toNat + accessBytes n →
    m.read addr n = none ∧ m.write addr n v = none) ∧
  ∀ (env : Env) (s : State) (failed : Bool) (addr v : Word) (n : AccessWidth) (k : Option Word → UnitProgram)
    (k' : Bool → UnitProgram), s.mem.size < addr.toNat + accessBytes n →
    (hostPoint env s).mem = s.mem ∧
    runUnit env (.memRead addr n k) failed s = runUnit env (k none) true (hostPoint env s) ∧
    runUnit env (.memWrite addr n v k') failed s = runUnit env (k' false) true (hostPoint env s) ∧
    (runUnit env (.memRead addr n k) failed s).2 = .fault .invalidMemoryAccess ∧
    (runUnit env (.memWrite addr n v k') failed s).2 = .fault .invalidMemoryAccess

/-- MemRead and MemWrite of the instruction unit, little-endian. For an access that lies in a canonical image. A
read returns the n bytes at addr, byte addr+i in bits 8i+7:8i, the bits above 0; the instruction unit goes on
with it and the access changes nothing. A write keeps mem_size and the canonical form, puts bits 8i+7:8i of the
value at address addr+i for each of its n bytes and leaves every other byte, and the same read then returns the
low n bytes of the value; the instruction unit is told that it happened and goes on with the written image,
nothing else changed. Commands of port HS may fall before either. The canonical form is the model's choice (log
13), and so are the points of port HS (log 9). (R62, R63, R64, R71, R221) -/
def Obligations.MemoryWriteThenRead : Prop :=
  ∀ (m : Memory) (addr v : Word) (n : AccessWidth), m.wf = true → addr.toNat + accessBytes n ≤ m.size →
    (∃ x : Word, m.read addr n = some x ∧ x.toNat < 256 ^ accessBytes n ∧
      (∀ i < accessBytes n, x.extractLsb' (8 * i) 8 = m.byte (addr.toNat + i)) ∧
      ∀ (env : Env) (k : Option Word → UnitProgram) (failed : Bool) (s : State), s.mem = m →
        runUnit env (.memRead addr n k) failed s = runUnit env (k (some x)) failed (hostPoint env s)) ∧
    ∃ m', m.write addr n v = some m' ∧ m'.size = m.size ∧ m'.wf = true ∧
      (∀ i < accessBytes n, m'.byte (addr.toNat + i) = v.extractLsb' (8 * i) 8) ∧
      (∀ a, (a < addr.toNat ∨ addr.toNat + accessBytes n ≤ a) → m'.byte a = m.byte a) ∧
      m'.read addr n = some (BitVec.ofNat 64 (v.toNat % 256 ^ accessBytes n)) ∧
      ∀ (env : Env) (k : Bool → UnitProgram) (failed : Bool) (s : State), s.mem = m →
        runUnit env (.memWrite addr n v k) failed s = runUnit env (k true) failed { hostPoint env s with mem := m' }

/-- What port IU serves, and how. On port IU each of the ten host-only commands is answered BadCommand and changes
nothing; every other command has exactly the effect it has on port HC; an illegal word is answered BadCommand. A
cycle is one call of InsnStep on what it sees of the program-visible state, run access by access, each after the
commands of port HS that fall before it: a command goes on with its response, a read of pc with pc; a write of
pc sets it; growing and shrinking change the image alone, and growing past max_memory changes nothing. The
unit's own outcome ends it, or InvalidMemoryAccess when an access has failed. The model's choices: the form of
InsnStep (log 5), the points of port HS (log 9), the canonical form of the image (log 13), how an attempt to
grow past max_memory ends (log 15), what InsnStep is given (log 18). (R92, R99, R100, R220, R221, R32, R61, R71) -/
def Obligations.InstructionUnitPortRights : Prop :=
  (∀ (i : Instr) (s : State), Instr.hostOnly i = true → unitCommand i s = { s with resp := { status := .badCommand } }) ∧
  (∀ (i : Instr) (s : State), Instr.hostOnly i = false → exec i s = .next (unitCommand i s)) ∧
  (∀ (c : Command) (s : State),
    (∀ i, decode c = .ok i → performIu c s = unitCommand i s) ∧
    ∀ e, decode c = .error e → performIu c s = { s with resp := { status := .badCommand } }) ∧
  CycleRunsTheUnit ∧ UnitEnds ∧ CommandAccess ∧ PcAccess ∧ GrowAccess ∧ ShrinkAccess

/-- Port HS serves HFEED and HDUMP only. A step over a command on port HS: HFEED and HDUMP have exactly the effect
they have on HC; every other command and every illegal word is answered BadCommand and changes nothing; the
response is delivered on HS. How the host presents commands is the model's choice (log 11). (R80, R92, R99) -/
def Obligations.HandleSidePortRights : Prop :=
  ∀ (s : State) (c : Command) (rest : List HostInput), s.inputs = .hs c :: rest →
    (∀ i t, decode c = .ok i → Instr.handleSide i = true → exec i { s with inputs := rest } = .next t →
      step s = .next { t with outputs := t.outputs ++ [.hs t.resp] }) ∧
    (((∃ i, decode c = .ok i ∧ Instr.handleSide i = false) ∨ ∃ e, decode c = .error e) →
      step s = .next { s with inputs := rest, resp := { status := .badCommand },
                              outputs := s.outputs ++ [.hs { status := .badCommand }] })

/-- What the host does and what it can change while an EXEC is in progress. At a point where commands of port HS
fall into an EXEC, the first n of those that wait are served, n from the point's draw, one after another: the
oldest is taken out of the queue (commands on HC before it stay, one behind a reset waits), performed and
answered on HS. HFEED and HDUMP have exactly the effect they have on HC, anything else is answered BadCommand
and changes nothing. So nothing but handle buffers, the waiting inputs, the delivered outputs, the response and
the draw count changes; every Live handle stays, with its cursor and flags, and its buffer is only extended.
Where port HS falls into an EXEC, and the queue of what waits, is the model's choice (logs 9, 11, 12). (R71, R80, R92, R99, R269, R270, R341) -/
def Obligations.HostReachesOnlyHandlesDuringExec : Prop :=
  (∀ (env : Env) (s : State), hostPoint env s = serveHs (env.hostCommands s.draws) { s with draws := s.draws + 1 }) ∧
  (∀ s : State, serveHs 0 s = s) ∧
  (∀ (n : Nat) (s : State), NoHsWaits s.inputs → serveHs n s = s) ∧
  (∀ (n : Nat) (s t : State) (c : Command) (before after : List HostInput), OnlyHc before →
    s.inputs = before ++ .hs c :: after → t = performHs c { s with inputs := before ++ after } →
    serveHs (n + 1) s = serveHs n { t with outputs := t.outputs ++ [.hs t.resp] }) ∧
  (∀ (c : Command) (s : State),
    (∀ i, decode c = .ok i → Instr.handleSide i = true → exec i s = .next (performHs c s)) ∧
    (((∃ i, decode c = .ok i ∧ Instr.handleSide i = false) ∨ ∃ e, decode c = .error e) →
      performHs c s = { s with resp := { status := .badCommand } })) ∧
  ∀ (env : Env) (s t : State), t = hostPoint env s →
    t = { s with hp := t.hp, inputs := t.inputs, outputs := t.outputs, resp := t.resp, draws := t.draws } ∧
    t.hp.length = s.hp.length ∧
    ∀ (h : Nat) (hd : Handle), s.hp[h]? = some hd → ∃ more, t.hp[h]? = some { hd with buf := hd.buf ++ more }

/-- STDIO. Fewer than three slots: BadSlot. Otherwise fewer than three Free entries: NoHandle. In both nothing
changes. Otherwise three new handles at the lowest Free ids a, b, c, standard input readable and interactive,
the other two writable and append-only, are installed in slots 0, 1, 2 and the answer carries the ids. The spec
marks as its own decision: D21, D22, D32. (R262) -/
def Obligations.StdioWiresThreeHandles : Prop :=
  Names 0x40000000 (fun _ _ => .stdio) ∧
  ∀ s : State,
    (s.fd.length < 3 → exec .stdio s = .next { s with resp := { status := .badSlot } }) ∧
    (3 ≤ s.fd.length → Config.nHandles < s.hp.length + 3 →
      exec .stdio s = .next { s with resp := { status := .noHandle } }) ∧
    (3 ≤ s.fd.length → s.hp.length + 3 ≤ Config.nHandles → ∀ a : Nat, a = s.hp.length →
      exec .stdio s = .next { s with
        hp := s.hp ++ [FreshHandle true false false false true, FreshHandle false true false true false,
                       FreshHandle false true false true false]
        fd := some a :: some (a + 1) :: some (a + 2) :: s.fd.drop 3
        resp := { rdata := 0#16 ++ BitVec.ofNat 16 (a + 2) ++ BitVec.ofNat 16 (a + 1) ++ BitVec.ofNat 16 a } })

/-- HNEW. Named by its words for all 32 capability sets. With no Free entry: NoHandle, nothing changes. Otherwise a
handle with an empty buffer, cursor 0 and the five flags of caps at the lowest Free id, which is answered;
nothing else changes. The spec marks as its own decision: D21. (R263) -/
def Obligations.HnewCreatesAHandle : Prop :=
  (∀ caps : BitVec 5, Names (0x41000000 + caps.toNat * 2 ^ 16) (fun _ _ => .hnew caps)) ∧
  ∀ (caps : BitVec 5) (s : State),
    (Config.nHandles ≤ s.hp.length → exec (.hnew caps) s = .next { s with resp := { status := .noHandle } }) ∧
    (s.hp.length < Config.nHandles →
      exec (.hnew caps) s = .next { s with
        hp := s.hp ++ [FreshHandle (caps.getLsbD 0) (caps.getLsbD 1) (caps.getLsbD 2) (caps.getLsbD 3) (caps.getLsbD 4)]
        resp := { rdata := BitVec.ofNat 64 s.hp.length } })

/-- INSTALL. Named by its words for every slot. Slot not below fd_cap: BadSlot. Otherwise wdata[15:0] no Live
handle: BadHandle. In both nothing changes. Otherwise the slot holds the handle, whatever it held, and nothing
else changes. (R264) -/
def Obligations.InstallReplacesASlot : Prop :=
  (∀ slot : BitVec 16, Names (0x42000000 + slot.toNat) (fun wdata _ => .install slot wdata)) ∧
  ∀ (slot : BitVec 16) (w : Word) (s : State),
    (s.fd.length ≤ slot.toNat → exec (.install slot w) s = .next { s with resp := { status := .badSlot } }) ∧
    (slot.toNat < s.fd.length → s.hp.length ≤ w.toNat % 2 ^ 16 →
      exec (.install slot w) s = .next { s with resp := { status := .badHandle } }) ∧
    (slot.toNat < s.fd.length → w.toNat % 2 ^ 16 < s.hp.length →
      exec (.install slot w) s =
        .next { s with fd := s.fd.set slot.toNat (some (w.toNat % 2 ^ 16)), resp := {} })

/-- FREAD. Named by its words for every slot. No file in the slot: BadSlot. A handle that is not readable:
PermissionDenied. In both nothing changes. Otherwise, with the cursor in its buffer, min(n, what is left) bytes
from the cursor are answered with their count, the cursor moves over them, the buffer and everything else stays.
The spec marks as its own decision: D23. (R266) -/
def Obligations.FreadTakesFromTheCursor : Prop :=
  (∀ slot : BitVec 16, Names (0x43000000 + slot.toNat) (fun wdata _ => .fread slot wdata)) ∧
  ∀ (slot : BitVec 16) (n : Word) (s : State),
    (NoFile s slot → exec (.fread slot n) s = .next { s with resp := { status := .badSlot } }) ∧
    ∀ (h : Nat) (hd : Handle), Holds s slot h hd →
      (hd.readable = false → exec (.fread slot n) s = .next { s with resp := { status := .permissionDenied } }) ∧
      (hd.readable = true → ∀ past data left : List Byte, hd.buf = past ++ data ++ left →
        hd.pos.toNat = past.length → data.length = min n.toNat (data.length + left.length) →
        exec (.fread slot n) s = .next { s with
          hp := s.hp.set h { hd with pos := hd.pos + BitVec.ofNat 64 data.length }
          resp := { rdata := BitVec.ofNat 64 data.length, rpayload := data } })

/-- FWRITE. Named by its words for every slot. No file in the slot: BadSlot. A handle that is not writable:
PermissionDenied. In both nothing changes. Otherwise all m bytes are written and m is answered: an append-only
handle grows at its end and its cursor moves to the new end; any other, with the cursor in its buffer, is
overwritten from the cursor, grows when the bytes run past the end, and its cursor moves by m. Everything else
stays. The spec marks as its own decision: D30. (R267) -/
def Obligations.FwriteStoresThroughTheCursor : Prop :=
  (∀ slot : BitVec 16, Names (0x44000000 + slot.toNat) (fun _ payload => .fwrite slot payload)) ∧
  ∀ (slot : BitVec 16) (bytes : List Byte) (s : State),
    (NoFile s slot → exec (.fwrite slot bytes) s = .next { s with resp := { status := .badSlot } }) ∧
    ∀ (h : Nat) (hd : Handle), Holds s slot h hd →
      (hd.writable = false → exec (.fwrite slot bytes) s = .next { s with resp := { status := .permissionDenied } }) ∧
      (hd.writable = true → hd.appendonly = true →
        exec (.fwrite slot bytes) s = .next { s with
          hp := s.hp.set h { hd with buf := hd.buf ++ bytes, pos := BitVec.ofNat 64 (hd.buf.length + bytes.length) }
          resp := { rdata := BitVec.ofNat 64 bytes.length } }) ∧
      (hd.writable = true → hd.appendonly = false → ∀ past hit left : List Byte, hd.buf = past ++ hit ++ left →
        hd.pos.toNat = past.length → hit.length = min bytes.length (hit.length + left.length) →
        exec (.fwrite slot bytes) s = .next { s with
          hp := s.hp.set h { hd with buf := past ++ bytes ++ left, pos := hd.pos + BitVec.ofNat 64 bytes.length }
          resp := { rdata := BitVec.ofNat 64 bytes.length } })

/-- HFEED and HDUMP. Named by their words for every handle id. An id that is not Live: BadHandle, nothing changes.
HFEED appends the bytes to the buffer whatever the flags, the cursor stays, the count is answered. HDUMP answers
the whole buffer and its length whatever the flags and changes nothing. (R269, R270) -/
def Obligations.HfeedAndHdumpByHandleId : Prop :=
  (∀ h : BitVec 16, Names (0x45000000 + h.toNat) (fun _ payload => .hfeed h payload)) ∧
  (∀ h : BitVec 16, Names (0x46000000 + h.toNat) (fun _ _ => .hdump h)) ∧
  ∀ (h : BitVec 16) (bytes : List Byte) (s : State),
    (s.hp.length ≤ h.toNat →
      exec (.hfeed h bytes) s = .next { s with resp := { status := .badHandle } } ∧
      exec (.hdump h) s = .next { s with resp := { status := .badHandle } }) ∧
    ∀ hd : Handle, s.hp[h.toNat]? = some hd →
      exec (.hfeed h bytes) s = .next { s with
        hp := s.hp.set h.toNat { hd with buf := hd.buf ++ bytes }, resp := { rdata := BitVec.ofNat 64 bytes.length } } ∧
      exec (.hdump h) s = .next { s with resp := { rdata := BitVec.ofNat 64 hd.buf.length, rpayload := hd.buf } }

/-- FDOPEN and FDCLOSE. FDOPEN: wdata[15:0] no Live handle: BadHandle; no empty slot: TableFull; otherwise the least
empty slot holds the handle and is answered. FDCLOSE: no file in the slot: BadSlot; otherwise the slot is
emptied and the handle stays Live. Nothing else changes. The spec marks as its own decision: D26. (R271, R272) -/
def Obligations.FdopenTakesTheLeastEmptySlot : Prop :=
  Names 0x47000000 (fun wdata _ => .fdopen wdata) ∧
  (∀ slot : BitVec 16, Names (0x48000000 + slot.toNat) (fun _ _ => .fdclose slot)) ∧
  (∀ (w : Word) (s : State),
    (s.hp.length ≤ w.toNat % 2 ^ 16 → exec (.fdopen w) s = .next { s with resp := { status := .badHandle } }) ∧
    (w.toNat % 2 ^ 16 < s.hp.length → none ∉ s.fd →
      exec (.fdopen w) s = .next { s with resp := { status := .tableFull } }) ∧
    (w.toNat % 2 ^ 16 < s.hp.length → ∀ slot : Nat, s.fd[slot]? = some none →
      (∀ k < slot, s.fd[k]? ≠ some none) →
      exec (.fdopen w) s = .next { s with
        fd := s.fd.set slot (some (w.toNat % 2 ^ 16)), resp := { rdata := BitVec.ofNat 64 slot } })) ∧
  ∀ (slot : BitVec 16) (s : State),
    (NoFile s slot → exec (.fdclose slot) s = .next { s with resp := { status := .badSlot } }) ∧
    ∀ h, s.fd[slot.toNat]? = some (some h) →
      exec (.fdclose slot) s = .next { s with fd := s.fd.set slot.toNat none, resp := {} }

/-- The echo law. When slot 0 holds a readable handle whose cursor is in its buffer and slot 1 another, writable and
append-only handle, and reads on slot 0 are done until one returns no byte, each chunk written to slot 1 in
order, then the second handle's buffer has grown by exactly the bytes that were unread in the first (buffers
below 2^64 bytes). (R279) -/
def Obligations.EchoCopiesTheUnreadBytes : Prop :=
  ∀ (s t : State) (h0 h1 : Nat) (i o : Handle), Echo s t → h0 ≠ h1 → Holds s 0#16 h0 i → Holds s 1#16 h1 o →
    i.readable = true → o.writable = true → o.appendonly = true →
    i.pos.toNat ≤ i.buf.length → i.buf.length < 2 ^ 64 →
    ∃ o', Holds t 1#16 h1 o' ∧ o'.buf = o.buf ++ i.buf.drop i.pos.toNat

/-- Only INSTALL and STDIO replace an occupied slot. A command that changes a slot from one handle to another is
INSTALL or STDIO, or an EXEC, in which each command of the instruction unit never does it. (R221, R273) -/
def Obligations.SlotReuseNeedsAnEmptySlot : Prop :=
  (∀ (i : Instr) (s t : State) (slot h h' : Nat), exec i s = .next t → s.fd[slot]? = some (some h) →
    t.fd[slot]? = some (some h') → h' ≠ h → (∃ k w, i = .install k w) ∨ i = .stdio ∨ ∃ b, i = .exec b) ∧
  ∀ (i : Instr) (s : State) (slot h h' : Nat), s.fd[slot]? = some (some h) →
    (unitCommand i s).fd[slot]? = some (some h') → h' = h

/-- A status other than OK changes nothing but the INIT latch. A command that answers a status other than OK leaves
every part of the block as it was, but that InitError, which only INIT answers, sets init_failed; EXEC always
answers OK. (R86) -/
def Obligations.ErrorStatusChangesNothing : Prop :=
  ∀ (i : Instr) (s t : State), exec i s = .next t →
    (t.resp.status ≠ .ok → t.resp.status ≠ .initError → t = { s with resp := t.resp }) ∧
    (t.resp.status = .initError → (∃ bytes, i = .init bytes) ∧ t = { s with initFailed := true, resp := t.resp }) ∧
    ∀ b, i = .exec b → t.resp.status = .ok

/-- Register, flag and file commands work alike in every execution state. For every command but INIT, EXEC,
STATEGET, ERRGET and RETGET, replacing the execution state before the command gives the same result with the
execution state replaced. (R46, R110, R150, R260) -/
def Obligations.CommandsIgnoreTheExecutionState : Prop :=
  ∀ (i : Instr) (x : XState) (s t : State), Instr.concernsEngine i = false → exec i s = .next t →
    exec i { s with xstate := x } = .next { t with xstate := x }

/-- No flag changes the behaviour of a command that is not about flags. For every command but those of the flags
register, INIT and EXEC, replacing the flags word before the command gives the same result with the flags word
replaced. (R31, R110, R260) -/
def Obligations.FlagsAreInert : Prop :=
  ∀ (i : Instr) (f : Word) (s t : State), Instr.concernsFlags i = false → exec i s = .next t →
    t.flags = s.flags ∧ exec i { s with flags := f } = .next { t with flags := f }

/-- No other command reads or writes pc or mem. For every command but INIT and EXEC, pc, mem, max_memory, stack_size
and init_failed stay, and replacing pc and mem before the command gives the same result with them replaced. (R32, R36, R46, R60) -/
def Obligations.HostReachesPcAndMemoryOnlyThroughInitAndExec : Prop :=
  ∀ (i : Instr) (p : Word) (m : Memory) (s t : State), (∀ bytes, i ≠ .init bytes) → (∀ b, i ≠ .exec b) →
    exec i s = .next t →
    t.pc = s.pc ∧ t.mem = s.mem ∧ t.maxMemory = s.maxMemory ∧ t.stackSize = s.stackSize ∧ t.initFailed = s.initFailed ∧
    exec i { s with pc := p, mem := m } = .next { t with pc := p, mem := m }

/-- A Live handle stays Live, keeps its flags, and loses no byte. In any step but a reset, every Live handle is
still Live at the same id with the same five flags and a buffer at least as long; an append-only handle's buffer
is only extended. (R38, R39, R268) -/
def Obligations.HandlesStayLiveWithTheirFlags : Prop :=
  ∀ (s t : State) (h : Nat) (hd : Handle), step s = .next t → (∀ rest, s.inputs ≠ .reset :: rest) →
    s.hp[h]? = some hd →
    ∃ hd', t.hp[h]? = some hd' ∧ SameFlags hd hd' ∧ hd.buf.length ≤ hd'.buf.length ∧
      (hd.appendonly = true → ∃ more, hd'.buf = hd.buf ++ more)

/-- The invariant holds after reset. Whatever a reset leaves in the registers, flags, pc and limits, the state after
it satisfies the invariant; so does the model's reset state. (R43, R44, R331) -/
def Obligations.ResetEstablishesTheInvariant : Prop :=
  (∀ d : ResetDraw, (State.afterReset d).Inv) ∧ State.reset.Inv

/-- Every step keeps the invariant. From every state of the invariant (canonical image within max_memory, at most
65536 slots that hold Live ids, at most N_HANDLES handles, every cursor in its buffer, the latch and an empty
table and image only in Uninitialized) every step leads to a state of it. The queue of inputs and the state of
an idle step are the model's choice (logs 11, 19). (R35, R36, R37, R38, R39, R61) -/
def Obligations.StepKeepsTheInvariant : Prop :=
  ∀ s t : State, s.Inv → step s = .next t → t.Inv

/-- What a reset event leaves. A reset, from every state: Uninitialized, the latch clear, no image, no slots, every
handle Free. Nothing is answered, what else waits and what was delivered stays. Of the registers, flags, pc and
the limits nothing is said. The spec marks as its own decision: D20. That a reset is an element of the queue,
and that waiting inputs and delivered outputs survive it, is the model's choice (log 12). (R43, R330, R331) -/
def Obligations.ResetEventClearsTheBlock : Prop :=
  ∀ (s t : State) (rest : List HostInput), s.inputs = .reset :: rest → step s = .next t →
    t.xstate = .uninitialized ∧ t.initFailed = false ∧ t.mem.size = 0 ∧ t.fdCap = 0 ∧ t.hp = [] ∧
    t.inputs = rest ∧ t.outputs = s.outputs
end

