-- ==== Sys2Proof/Laws/State.lean ====
section
/-! SUPPORT. One lemma per field per named update of the state, so that no proof unfolds a record update. -/

namespace Sys2Proof.Machine

variable (s : State)

@[simp] theorem State.answer_regs (r : Response) : (s.answer r).regs = s.regs := rfl
@[simp] theorem State.answer_flags (r : Response) : (s.answer r).flags = s.flags := rfl
@[simp] theorem State.answer_pc (r : Response) : (s.answer r).pc = s.pc := rfl
@[simp] theorem State.answer_xstate (r : Response) : (s.answer r).xstate = s.xstate := rfl
@[simp] theorem State.answer_initFailed (r : Response) : (s.answer r).initFailed = s.initFailed := rfl
@[simp] theorem State.answer_mem (r : Response) : (s.answer r).mem = s.mem := rfl
@[simp] theorem State.answer_maxMemory (r : Response) : (s.answer r).maxMemory = s.maxMemory := rfl
@[simp] theorem State.answer_stackSize (r : Response) : (s.answer r).stackSize = s.stackSize := rfl
@[simp] theorem State.answer_fd (r : Response) : (s.answer r).fd = s.fd := rfl
@[simp] theorem State.answer_hp (r : Response) : (s.answer r).hp = s.hp := rfl
@[simp] theorem State.answer_inputs (r : Response) : (s.answer r).inputs = s.inputs := rfl
@[simp] theorem State.answer_outputs (r : Response) : (s.answer r).outputs = s.outputs := rfl
@[simp] theorem State.answer_resp (r : Response) : (s.answer r).resp = r := rfl
@[simp] theorem State.answer_draws (r : Response) : (s.answer r).draws = s.draws := rfl

@[simp] theorem State.setReg_regs (reg : RegIdx) (v : Word) : (s.setReg reg v).regs = s.regs.set reg v := rfl
@[simp] theorem State.setReg_flags (reg : RegIdx) (v : Word) : (s.setReg reg v).flags = s.flags := rfl
@[simp] theorem State.setReg_pc (reg : RegIdx) (v : Word) : (s.setReg reg v).pc = s.pc := rfl
@[simp] theorem State.setReg_xstate (reg : RegIdx) (v : Word) : (s.setReg reg v).xstate = s.xstate := rfl
@[simp] theorem State.setReg_initFailed (reg : RegIdx) (v : Word) : (s.setReg reg v).initFailed = s.initFailed := rfl
@[simp] theorem State.setReg_mem (reg : RegIdx) (v : Word) : (s.setReg reg v).mem = s.mem := rfl
@[simp] theorem State.setReg_maxMemory (reg : RegIdx) (v : Word) : (s.setReg reg v).maxMemory = s.maxMemory := rfl
@[simp] theorem State.setReg_stackSize (reg : RegIdx) (v : Word) : (s.setReg reg v).stackSize = s.stackSize := rfl
@[simp] theorem State.setReg_fd (reg : RegIdx) (v : Word) : (s.setReg reg v).fd = s.fd := rfl
@[simp] theorem State.setReg_hp (reg : RegIdx) (v : Word) : (s.setReg reg v).hp = s.hp := rfl
@[simp] theorem State.setReg_inputs (reg : RegIdx) (v : Word) : (s.setReg reg v).inputs = s.inputs := rfl
@[simp] theorem State.setReg_outputs (reg : RegIdx) (v : Word) : (s.setReg reg v).outputs = s.outputs := rfl
@[simp] theorem State.setReg_resp (reg : RegIdx) (v : Word) : (s.setReg reg v).resp = s.resp := rfl
@[simp] theorem State.setReg_draws (reg : RegIdx) (v : Word) : (s.setReg reg v).draws = s.draws := rfl

@[simp] theorem State.setFlags_regs (v : Word) : (s.setFlags v).regs = s.regs := rfl
@[simp] theorem State.setFlags_flags (v : Word) : (s.setFlags v).flags = v := rfl
@[simp] theorem State.setFlags_pc (v : Word) : (s.setFlags v).pc = s.pc := rfl
@[simp] theorem State.setFlags_xstate (v : Word) : (s.setFlags v).xstate = s.xstate := rfl
@[simp] theorem State.setFlags_initFailed (v : Word) : (s.setFlags v).initFailed = s.initFailed := rfl
@[simp] theorem State.setFlags_mem (v : Word) : (s.setFlags v).mem = s.mem := rfl
@[simp] theorem State.setFlags_maxMemory (v : Word) : (s.setFlags v).maxMemory = s.maxMemory := rfl
@[simp] theorem State.setFlags_stackSize (v : Word) : (s.setFlags v).stackSize = s.stackSize := rfl
@[simp] theorem State.setFlags_fd (v : Word) : (s.setFlags v).fd = s.fd := rfl
@[simp] theorem State.setFlags_hp (v : Word) : (s.setFlags v).hp = s.hp := rfl
@[simp] theorem State.setFlags_inputs (v : Word) : (s.setFlags v).inputs = s.inputs := rfl
@[simp] theorem State.setFlags_outputs (v : Word) : (s.setFlags v).outputs = s.outputs := rfl
@[simp] theorem State.setFlags_resp (v : Word) : (s.setFlags v).resp = s.resp := rfl
@[simp] theorem State.setFlags_draws (v : Word) : (s.setFlags v).draws = s.draws := rfl

@[simp] theorem State.setHandle_regs (h : Nat) (hd : Handle) : (s.setHandle h hd).regs = s.regs := rfl
@[simp] theorem State.setHandle_flags (h : Nat) (hd : Handle) : (s.setHandle h hd).flags = s.flags := rfl
@[simp] theorem State.setHandle_pc (h : Nat) (hd : Handle) : (s.setHandle h hd).pc = s.pc := rfl
@[simp] theorem State.setHandle_xstate (h : Nat) (hd : Handle) : (s.setHandle h hd).xstate = s.xstate := rfl
@[simp] theorem State.setHandle_initFailed (h : Nat) (hd : Handle) : (s.setHandle h hd).initFailed = s.initFailed := rfl
@[simp] theorem State.setHandle_mem (h : Nat) (hd : Handle) : (s.setHandle h hd).mem = s.mem := rfl
@[simp] theorem State.setHandle_maxMemory (h : Nat) (hd : Handle) : (s.setHandle h hd).maxMemory = s.maxMemory := rfl
@[simp] theorem State.setHandle_stackSize (h : Nat) (hd : Handle) : (s.setHandle h hd).stackSize = s.stackSize := rfl
@[simp] theorem State.setHandle_fd (h : Nat) (hd : Handle) : (s.setHandle h hd).fd = s.fd := rfl
@[simp] theorem State.setHandle_hp (h : Nat) (hd : Handle) : (s.setHandle h hd).hp = s.hp.set h hd := rfl
@[simp] theorem State.setHandle_inputs (h : Nat) (hd : Handle) : (s.setHandle h hd).inputs = s.inputs := rfl
@[simp] theorem State.setHandle_outputs (h : Nat) (hd : Handle) : (s.setHandle h hd).outputs = s.outputs := rfl
@[simp] theorem State.setHandle_resp (h : Nat) (hd : Handle) : (s.setHandle h hd).resp = s.resp := rfl
@[simp] theorem State.setHandle_draws (h : Nat) (hd : Handle) : (s.setHandle h hd).draws = s.draws := rfl

@[simp] theorem State.setSlot_regs (slot : Nat) (e : Option Nat) : (s.setSlot slot e).regs = s.regs := rfl
@[simp] theorem State.setSlot_flags (slot : Nat) (e : Option Nat) : (s.setSlot slot e).flags = s.flags := rfl
@[simp] theorem State.setSlot_pc (slot : Nat) (e : Option Nat) : (s.setSlot slot e).pc = s.pc := rfl
@[simp] theorem State.setSlot_xstate (slot : Nat) (e : Option Nat) : (s.setSlot slot e).xstate = s.xstate := rfl
@[simp] theorem State.setSlot_initFailed (slot : Nat) (e : Option Nat) : (s.setSlot slot e).initFailed = s.initFailed := rfl
@[simp] theorem State.setSlot_mem (slot : Nat) (e : Option Nat) : (s.setSlot slot e).mem = s.mem := rfl
@[simp] theorem State.setSlot_maxMemory (slot : Nat) (e : Option Nat) : (s.setSlot slot e).maxMemory = s.maxMemory := rfl
@[simp] theorem State.setSlot_stackSize (slot : Nat) (e : Option Nat) : (s.setSlot slot e).stackSize = s.stackSize := rfl
@[simp] theorem State.setSlot_fd (slot : Nat) (e : Option Nat) : (s.setSlot slot e).fd = s.fd.set slot e := rfl
@[simp] theorem State.setSlot_hp (slot : Nat) (e : Option Nat) : (s.setSlot slot e).hp = s.hp := rfl
@[simp] theorem State.setSlot_inputs (slot : Nat) (e : Option Nat) : (s.setSlot slot e).inputs = s.inputs := rfl
@[simp] theorem State.setSlot_outputs (slot : Nat) (e : Option Nat) : (s.setSlot slot e).outputs = s.outputs := rfl
@[simp] theorem State.setSlot_resp (slot : Nat) (e : Option Nat) : (s.setSlot slot e).resp = s.resp := rfl
@[simp] theorem State.setSlot_draws (slot : Nat) (e : Option Nat) : (s.setSlot slot e).draws = s.draws := rfl

@[simp] theorem State.setMem_regs (m : Memory) : (s.setMem m).regs = s.regs := rfl
@[simp] theorem State.setMem_flags (m : Memory) : (s.setMem m).flags = s.flags := rfl
@[simp] theorem State.setMem_pc (m : Memory) : (s.setMem m).pc = s.pc := rfl
@[simp] theorem State.setMem_xstate (m : Memory) : (s.setMem m).xstate = s.xstate := rfl
@[simp] theorem State.setMem_initFailed (m : Memory) : (s.setMem m).initFailed = s.initFailed := rfl
@[simp] theorem State.setMem_mem (m : Memory) : (s.setMem m).mem = m := rfl
@[simp] theorem State.setMem_maxMemory (m : Memory) : (s.setMem m).maxMemory = s.maxMemory := rfl
@[simp] theorem State.setMem_stackSize (m : Memory) : (s.setMem m).stackSize = s.stackSize := rfl
@[simp] theorem State.setMem_fd (m : Memory) : (s.setMem m).fd = s.fd := rfl
@[simp] theorem State.setMem_hp (m : Memory) : (s.setMem m).hp = s.hp := rfl
@[simp] theorem State.setMem_inputs (m : Memory) : (s.setMem m).inputs = s.inputs := rfl
@[simp] theorem State.setMem_outputs (m : Memory) : (s.setMem m).outputs = s.outputs := rfl
@[simp] theorem State.setMem_resp (m : Memory) : (s.setMem m).resp = s.resp := rfl
@[simp] theorem State.setMem_draws (m : Memory) : (s.setMem m).draws = s.draws := rfl

@[simp] theorem State.setPc_regs (v : Word) : (s.setPc v).regs = s.regs := rfl
@[simp] theorem State.setPc_flags (v : Word) : (s.setPc v).flags = s.flags := rfl
@[simp] theorem State.setPc_pc (v : Word) : (s.setPc v).pc = v := rfl
@[simp] theorem State.setPc_xstate (v : Word) : (s.setPc v).xstate = s.xstate := rfl
@[simp] theorem State.setPc_initFailed (v : Word) : (s.setPc v).initFailed = s.initFailed := rfl
@[simp] theorem State.setPc_mem (v : Word) : (s.setPc v).mem = s.mem := rfl
@[simp] theorem State.setPc_maxMemory (v : Word) : (s.setPc v).maxMemory = s.maxMemory := rfl
@[simp] theorem State.setPc_stackSize (v : Word) : (s.setPc v).stackSize = s.stackSize := rfl
@[simp] theorem State.setPc_fd (v : Word) : (s.setPc v).fd = s.fd := rfl
@[simp] theorem State.setPc_hp (v : Word) : (s.setPc v).hp = s.hp := rfl
@[simp] theorem State.setPc_inputs (v : Word) : (s.setPc v).inputs = s.inputs := rfl
@[simp] theorem State.setPc_outputs (v : Word) : (s.setPc v).outputs = s.outputs := rfl
@[simp] theorem State.setPc_resp (v : Word) : (s.setPc v).resp = s.resp := rfl
@[simp] theorem State.setPc_draws (v : Word) : (s.setPc v).draws = s.draws := rfl

@[simp] theorem State.captureFault_regs (k : FaultKind) : (s.captureFault k).regs = s.regs := rfl
@[simp] theorem State.captureFault_flags (k : FaultKind) : (s.captureFault k).flags = s.flags := rfl
@[simp] theorem State.captureFault_pc (k : FaultKind) : (s.captureFault k).pc = s.pc := rfl
@[simp] theorem State.captureFault_xstate (k : FaultKind) : (s.captureFault k).xstate = .error k := rfl
@[simp] theorem State.captureFault_initFailed (k : FaultKind) : (s.captureFault k).initFailed = s.initFailed := rfl
@[simp] theorem State.captureFault_mem (k : FaultKind) : (s.captureFault k).mem = s.mem := rfl
@[simp] theorem State.captureFault_maxMemory (k : FaultKind) : (s.captureFault k).maxMemory = s.maxMemory := rfl
@[simp] theorem State.captureFault_stackSize (k : FaultKind) : (s.captureFault k).stackSize = s.stackSize := rfl
@[simp] theorem State.captureFault_fd (k : FaultKind) : (s.captureFault k).fd = s.fd := rfl
@[simp] theorem State.captureFault_hp (k : FaultKind) : (s.captureFault k).hp = s.hp := rfl
@[simp] theorem State.captureFault_inputs (k : FaultKind) : (s.captureFault k).inputs = s.inputs := rfl
@[simp] theorem State.captureFault_outputs (k : FaultKind) : (s.captureFault k).outputs = s.outputs := rfl
@[simp] theorem State.captureFault_resp (k : FaultKind) : (s.captureFault k).resp = s.resp := rfl
@[simp] theorem State.captureFault_draws (k : FaultKind) : (s.captureFault k).draws = s.draws := rfl

@[simp] theorem State.exitProgram_regs (rc : BitVec 32) : (s.exitProgram rc).regs = s.regs := rfl
@[simp] theorem State.exitProgram_flags (rc : BitVec 32) : (s.exitProgram rc).flags = s.flags := rfl
@[simp] theorem State.exitProgram_pc (rc : BitVec 32) : (s.exitProgram rc).pc = s.pc := rfl
@[simp] theorem State.exitProgram_xstate (rc : BitVec 32) : (s.exitProgram rc).xstate = .terminated rc := rfl
@[simp] theorem State.exitProgram_initFailed (rc : BitVec 32) : (s.exitProgram rc).initFailed = s.initFailed := rfl
@[simp] theorem State.exitProgram_mem (rc : BitVec 32) : (s.exitProgram rc).mem = s.mem := rfl
@[simp] theorem State.exitProgram_maxMemory (rc : BitVec 32) : (s.exitProgram rc).maxMemory = s.maxMemory := rfl
@[simp] theorem State.exitProgram_stackSize (rc : BitVec 32) : (s.exitProgram rc).stackSize = s.stackSize := rfl
@[simp] theorem State.exitProgram_fd (rc : BitVec 32) : (s.exitProgram rc).fd = s.fd := rfl
@[simp] theorem State.exitProgram_hp (rc : BitVec 32) : (s.exitProgram rc).hp = s.hp := rfl
@[simp] theorem State.exitProgram_inputs (rc : BitVec 32) : (s.exitProgram rc).inputs = s.inputs := rfl
@[simp] theorem State.exitProgram_outputs (rc : BitVec 32) : (s.exitProgram rc).outputs = s.outputs := rfl
@[simp] theorem State.exitProgram_resp (rc : BitVec 32) : (s.exitProgram rc).resp = s.resp := rfl
@[simp] theorem State.exitProgram_draws (rc : BitVec 32) : (s.exitProgram rc).draws = s.draws := rfl

@[simp] theorem State.answerHs_regs : s.answerHs.regs = s.regs := rfl
@[simp] theorem State.answerHs_flags : s.answerHs.flags = s.flags := rfl
@[simp] theorem State.answerHs_pc : s.answerHs.pc = s.pc := rfl
@[simp] theorem State.answerHs_xstate : s.answerHs.xstate = s.xstate := rfl
@[simp] theorem State.answerHs_initFailed : s.answerHs.initFailed = s.initFailed := rfl
@[simp] theorem State.answerHs_mem : s.answerHs.mem = s.mem := rfl
@[simp] theorem State.answerHs_maxMemory : s.answerHs.maxMemory = s.maxMemory := rfl
@[simp] theorem State.answerHs_stackSize : s.answerHs.stackSize = s.stackSize := rfl
@[simp] theorem State.answerHs_fd : s.answerHs.fd = s.fd := rfl
@[simp] theorem State.answerHs_hp : s.answerHs.hp = s.hp := rfl
@[simp] theorem State.answerHs_inputs : s.answerHs.inputs = s.inputs := rfl
@[simp] theorem State.answerHs_outputs : s.answerHs.outputs = s.outputs ++ [.hs s.resp] := rfl
@[simp] theorem State.answerHs_resp : s.answerHs.resp = s.resp := rfl
@[simp] theorem State.answerHs_draws : s.answerHs.draws = s.draws := rfl

@[simp] theorem State.answerHc_regs : s.answerHc.regs = s.regs := rfl
@[simp] theorem State.answerHc_flags : s.answerHc.flags = s.flags := rfl
@[simp] theorem State.answerHc_pc : s.answerHc.pc = s.pc := rfl
@[simp] theorem State.answerHc_xstate : s.answerHc.xstate = s.xstate := rfl
@[simp] theorem State.answerHc_initFailed : s.answerHc.initFailed = s.initFailed := rfl
@[simp] theorem State.answerHc_mem : s.answerHc.mem = s.mem := rfl
@[simp] theorem State.answerHc_maxMemory : s.answerHc.maxMemory = s.maxMemory := rfl
@[simp] theorem State.answerHc_stackSize : s.answerHc.stackSize = s.stackSize := rfl
@[simp] theorem State.answerHc_fd : s.answerHc.fd = s.fd := rfl
@[simp] theorem State.answerHc_hp : s.answerHc.hp = s.hp := rfl
@[simp] theorem State.answerHc_inputs : s.answerHc.inputs = s.inputs := rfl
@[simp] theorem State.answerHc_outputs : s.answerHc.outputs = s.outputs ++ [.hc s.resp] := rfl
@[simp] theorem State.answerHc_resp : s.answerHc.resp = s.resp := rfl
@[simp] theorem State.answerHc_draws : s.answerHc.draws = s.draws := rfl

@[simp] theorem State.initFails_regs : s.initFails.regs = s.regs := rfl
@[simp] theorem State.initFails_flags : s.initFails.flags = s.flags := rfl
@[simp] theorem State.initFails_pc : s.initFails.pc = s.pc := rfl
@[simp] theorem State.initFails_xstate : s.initFails.xstate = s.xstate := rfl
@[simp] theorem State.initFails_initFailed : s.initFails.initFailed = true := rfl
@[simp] theorem State.initFails_mem : s.initFails.mem = s.mem := rfl
@[simp] theorem State.initFails_maxMemory : s.initFails.maxMemory = s.maxMemory := rfl
@[simp] theorem State.initFails_stackSize : s.initFails.stackSize = s.stackSize := rfl
@[simp] theorem State.initFails_fd : s.initFails.fd = s.fd := rfl
@[simp] theorem State.initFails_hp : s.initFails.hp = s.hp := rfl
@[simp] theorem State.initFails_inputs : s.initFails.inputs = s.inputs := rfl
@[simp] theorem State.initFails_outputs : s.initFails.outputs = s.outputs := rfl
@[simp] theorem State.initFails_resp : s.initFails.resp = errorResponse .initError := rfl
@[simp] theorem State.initFails_draws : s.initFails.draws = s.draws := rfl

@[simp] theorem State.rejectCommand_regs : s.rejectCommand.regs = s.regs := rfl
@[simp] theorem State.rejectCommand_flags : s.rejectCommand.flags = s.flags := rfl
@[simp] theorem State.rejectCommand_pc : s.rejectCommand.pc = s.pc := rfl
@[simp] theorem State.rejectCommand_xstate : s.rejectCommand.xstate = s.xstate := rfl
@[simp] theorem State.rejectCommand_initFailed : s.rejectCommand.initFailed = s.initFailed := rfl
@[simp] theorem State.rejectCommand_mem : s.rejectCommand.mem = s.mem := rfl
@[simp] theorem State.rejectCommand_maxMemory : s.rejectCommand.maxMemory = s.maxMemory := rfl
@[simp] theorem State.rejectCommand_stackSize : s.rejectCommand.stackSize = s.stackSize := rfl
@[simp] theorem State.rejectCommand_fd : s.rejectCommand.fd = s.fd := rfl
@[simp] theorem State.rejectCommand_hp : s.rejectCommand.hp = s.hp := rfl
@[simp] theorem State.rejectCommand_inputs : s.rejectCommand.inputs = s.inputs := rfl
@[simp] theorem State.rejectCommand_outputs : s.rejectCommand.outputs = s.outputs := rfl
@[simp] theorem State.rejectCommand_resp : s.rejectCommand.resp = errorResponse .badCommand := rfl
@[simp] theorem State.rejectCommand_draws : s.rejectCommand.draws = s.draws := rfl

end Sys2Proof.Machine
end

