-- ==== Sys2Proof/Laws/Memory.lean ====
section
/-! SUPPORT. The memory image: every operation keeps the canonical form, and what each byte reads as afterwards. -/

namespace Sys2Proof.Machine

/-! ### Cell lists -/

theorem cellsOk_cons (lo hi a : Nat) (b : Byte) (rest : List Host.Cell) :
    cellsOk lo hi ((a, b) :: rest) = true ↔ lo ≤ a ∧ a < hi ∧ b ≠ 0 ∧ cellsOk (a + 1) hi rest = true := by
  simp [cellsOk, and_assoc]

theorem cellsOk_weaken {lo lo' hi hi' : Nat} {cells : List Host.Cell} (h : cellsOk lo hi cells = true)
    (hlo : lo' ≤ lo) (hhi : hi ≤ hi') : cellsOk lo' hi' cells = true := by
  induction cells generalizing lo lo' with
  | nil => rfl
  | cons c rest ih =>
    obtain ⟨h1, h2, h3, h4⟩ := (cellsOk_cons ..).mp h
    exact (cellsOk_cons ..).mpr ⟨by omega, by omega, h3, ih h4 (Nat.le_refl _)⟩

/-- A cell list lists nothing below its bound. -/
theorem cellByte_below {lo hi : Nat} {cells : List Host.Cell} (h : cellsOk lo hi cells = true) {k : Nat}
    (hk : k < lo) : cellByte cells k = 0 := by
  induction cells generalizing lo with
  | nil => rfl
  | cons c rest ih =>
    obtain ⟨h1, -, -, h4⟩ := (cellsOk_cons ..).mp h
    simp only [cellByte]
    rw [if_neg (by omega), ih h4 (by omega)]

/-- A cell list lists nothing at or above its upper bound. -/
theorem cellByte_above {lo hi : Nat} {cells : List Host.Cell} (h : cellsOk lo hi cells = true) {k : Nat}
    (hk : hi ≤ k) : cellByte cells k = 0 := by
  induction cells generalizing lo with
  | nil => rfl
  | cons c rest ih =>
    obtain ⟨-, h2, -, h4⟩ := (cellsOk_cons ..).mp h
    simp only [cellByte]
    rw [if_neg (by omega), ih h4]

/-- Storing a byte keeps the canonical form. -/
theorem cellsOk_putCell {lo hi : Nat} {cells : List Host.Cell} (h : cellsOk lo hi cells = true) {a : Nat} (b : Byte)
    (hlo : lo ≤ a) (hhi : a < hi) : cellsOk lo hi (putCell cells a b) = true := by
  induction cells generalizing lo with
  | nil =>
    by_cases hb : b = 0
    · rw [putCell, if_pos hb]
      rfl
    · rw [putCell, if_neg hb]
      exact (cellsOk_cons ..).mpr ⟨hlo, hhi, hb, rfl⟩
  | cons c rest ih =>
    obtain ⟨k, v⟩ := c
    obtain ⟨h1, h2, h3, h4⟩ := (cellsOk_cons ..).mp h
    simp only [putCell]
    split
    · split
      · exact h
      · rename_i hlt hb
        exact (cellsOk_cons ..).mpr ⟨hlo, hhi, hb, (cellsOk_cons ..).mpr ⟨by omega, h2, h3, h4⟩⟩
    · split
      · rename_i hnlt heq
        split
        · exact cellsOk_weaken h4 (by omega) (Nat.le_refl _)
        · rename_i hb
          exact (cellsOk_cons ..).mpr ⟨hlo, hhi, hb, heq ▸ h4⟩
      · exact (cellsOk_cons ..).mpr ⟨h1, h2, h3, ih h4 (by omega)⟩

/-- What is read after a byte is stored: the byte at its address, the old one elsewhere. -/
theorem cellByte_putCell {lo hi : Nat} {cells : List Host.Cell} (h : cellsOk lo hi cells = true) (a : Nat) (b : Byte)
    (k : Nat) : cellByte (putCell cells a b) k = if k = a then b else cellByte cells k := by
  induction cells generalizing lo with
  | nil =>
    by_cases hb : b = 0
    · rw [putCell, if_pos hb, cellByte, hb, ite_self]
    · rw [putCell, if_neg hb]
      simp only [cellByte]
      by_cases hk : k = a
      · rw [if_pos hk, if_pos hk.symm]
      · rw [if_neg hk, if_neg (Ne.symm hk)]
  | cons c rest ih =>
    obtain ⟨j, v⟩ := c
    obtain ⟨h1, h2, h3, h4⟩ := (cellsOk_cons ..).mp h
    have hbelow : ∀ {m : Nat}, m ≤ j → cellByte rest m = 0 := fun hm => cellByte_below h4 (by omega)
    simp only [putCell]
    by_cases hlt : a < j
    · by_cases hb : b = 0
      · rw [if_pos hlt, if_pos hb]
        by_cases hk : k = a
        · subst hk
          rw [if_pos rfl, cellByte, if_neg (by omega), hbelow (by omega), hb]
        · rw [if_neg hk]
      · rw [if_pos hlt, if_neg hb, cellByte]
        by_cases hk : k = a
        · rw [if_pos hk, if_pos hk.symm]
        · rw [if_neg hk, if_neg (Ne.symm hk)]
    · rw [if_neg hlt]
      by_cases heq : a = j
      · subst heq
        rw [if_pos rfl]
        by_cases hb : b = 0
        · rw [if_pos hb]
          by_cases hk : k = a
          · rw [if_pos hk, hk, hbelow (Nat.le_refl _), hb]
          · rw [if_neg hk, cellByte, if_neg (Ne.symm hk)]
        · rw [if_neg hb, cellByte]
          by_cases hk : k = a
          · rw [if_pos hk, if_pos hk.symm]
          · rw [if_neg hk, if_neg (Ne.symm hk), cellByte, if_neg (Ne.symm hk)]
      · rw [if_neg heq, cellByte, ih h4]
        by_cases hj : j = k
        · subst hj
          rw [if_pos rfl, if_neg (Ne.symm heq), cellByte, if_pos rfl]
        · rw [if_neg hj, cellByte, if_neg hj]

/-- Storing a byte string inside the bounds keeps the canonical form. -/
theorem cellsOk_putBytes {lo hi : Nat} {cells : List Host.Cell} (h : cellsOk lo hi cells = true) {a : Nat}
    (bytes : List Byte) (hlo : lo ≤ a) (hhi : a + bytes.length ≤ hi) : cellsOk lo hi (putBytes cells a bytes) = true := by
  induction bytes generalizing cells a with
  | nil => exact h
  | cons b rest ih =>
    simp only [List.length_cons] at hhi
    exact ih (cellsOk_putCell h b hlo (by omega)) (by omega) (by omega)

/-- What is read after a byte string is stored: its bytes in the range, the old ones elsewhere. -/
theorem cellByte_putBytes {lo hi : Nat} {cells : List Host.Cell} (h : cellsOk lo hi cells = true) {a : Nat}
    (bytes : List Byte) (hlo : lo ≤ a) (hhi : a + bytes.length ≤ hi) (k : Nat) :
    cellByte (putBytes cells a bytes) k =
      if a ≤ k ∧ k < a + bytes.length then bytes.getD (k - a) 0 else cellByte cells k := by
  induction bytes generalizing cells a with
  | nil => rw [putBytes, if_neg (by simp only [List.length_nil]; omega)]
  | cons b rest ih =>
    simp only [List.length_cons] at hhi ⊢
    rw [putBytes, ih (cellsOk_putCell h b hlo (by omega)) (by omega) (by omega), cellByte_putCell h]
    by_cases hk : k = a
    · subst hk
      rw [if_neg (by omega), if_pos rfl, if_pos (by omega)]
      simp
    · by_cases hin : a + 1 ≤ k ∧ k < a + 1 + rest.length
      · rw [if_pos hin, if_pos (by omega)]
        have : k - a = (k - (a + 1)) + 1 := by omega
        rw [this, List.getD_cons_succ]
      · rw [if_neg hin, if_neg hk, if_neg (by omega)]

/-- The cells of a byte string are canonical. -/
theorem cellsOk_cellsAt (a : Nat) (bytes : List Byte) : cellsOk a (a + bytes.length) (cellsAt a bytes) = true := by
  induction bytes generalizing a with
  | nil => rfl
  | cons b rest ih =>
    have hrest : cellsOk (a + 1) (a + (rest.length + 1)) (cellsAt (a + 1) rest) = true := by
      have := ih (a + 1)
      rwa [show a + 1 + rest.length = a + (rest.length + 1) by omega] at this
    simp only [cellsAt, List.length_cons]
    split
    · exact cellsOk_weaken hrest (by omega) (Nat.le_refl _)
    · rename_i hb
      exact (cellsOk_cons ..).mpr ⟨Nat.le_refl _, by omega, hb, hrest⟩

/-- What the cells of a byte string read as. -/
theorem cellByte_cellsAt (a : Nat) (bytes : List Byte) (k : Nat) :
    cellByte (cellsAt a bytes) k = if a ≤ k then bytes.getD (k - a) 0 else 0 := by
  induction bytes generalizing a with
  | nil => simp [cellsAt, cellByte]
  | cons b rest ih =>
    have hstep : k ≠ a → (if a ≤ k then (b :: rest).getD (k - a) 0 else 0) =
        if a + 1 ≤ k then rest.getD (k - (a + 1)) 0 else 0 := by
      intro hk
      by_cases h : a + 1 ≤ k
      · rw [if_pos h, if_pos (by omega), show k - a = (k - (a + 1)) + 1 by omega, List.getD_cons_succ]
      · rw [if_neg h, if_neg (by omega)]
    simp only [cellsAt]
    by_cases hb : b = 0
    · rw [if_pos hb, ih]
      by_cases hk : k = a
      · subst hk
        rw [if_neg (by omega), if_pos (Nat.le_refl _)]
        simp [hb]
      · rw [hstep hk]
    · rw [if_neg hb, cellByte, ih]
      by_cases hk : k = a
      · subst hk
        rw [if_pos rfl, if_pos (Nat.le_refl _)]
        simp
      · rw [if_neg (Ne.symm hk), hstep hk]

theorem cellsOk_append {lo mid hi : Nat} {c d : List Host.Cell} (hc : cellsOk lo mid c = true)
    (hd : cellsOk mid hi d = true) (hlo : lo ≤ mid) (hm : mid ≤ hi) : cellsOk lo hi (c ++ d) = true := by
  induction c generalizing lo with
  | nil => exact cellsOk_weaken hd hlo (Nat.le_refl _)
  | cons x rest ih =>
    obtain ⟨h1, h2, h3, h4⟩ := (cellsOk_cons ..).mp hc
    exact (cellsOk_cons ..).mpr ⟨h1, by omega, h3, ih h4 (by omega)⟩

theorem cellByte_append {lo mid hi : Nat} {c d : List Host.Cell} (hc : cellsOk lo mid c = true)
    (hd : cellsOk mid hi d = true) (k : Nat) :
    cellByte (c ++ d) k = if k < mid then cellByte c k else cellByte d k := by
  induction c generalizing lo with
  | nil =>
    by_cases hk : k < mid
    · rw [if_pos hk, List.nil_append, cellByte_below hd hk, cellByte]
    · rw [if_neg hk, List.nil_append]
  | cons x rest ih =>
    obtain ⟨h1, h2, -, h4⟩ := (cellsOk_cons ..).mp hc
    rw [List.cons_append, cellByte, ih h4]
    by_cases hx : x.1 = k
    · rw [if_pos hx, if_pos (by omega), cellByte, if_pos hx]
    · rw [if_neg hx, cellByte, if_neg hx]

theorem cellsOk_filter {lo hi : Nat} {cells : List Host.Cell} (h : cellsOk lo hi cells = true) (size : Nat) :
    cellsOk lo (min size hi) (cells.filter (fun c => decide (c.1 < size))) = true := by
  induction cells generalizing lo with
  | nil => rfl
  | cons x rest ih =>
    obtain ⟨h1, h2, h3, h4⟩ := (cellsOk_cons ..).mp h
    by_cases hx : x.1 < size
    · rw [List.filter_cons_of_pos (by simpa using hx)]
      exact (cellsOk_cons ..).mpr ⟨h1, by omega, h3, ih h4⟩
    · rw [List.filter_cons_of_neg (by simpa using hx)]
      exact cellsOk_weaken (ih h4) (by omega) (Nat.le_refl _)

theorem cellByte_filter (cells : List Host.Cell) (size k : Nat) :
    cellByte (cells.filter (fun c => decide (c.1 < size))) k = if k < size then cellByte cells k else 0 := by
  induction cells with
  | nil => simp [cellByte]
  | cons x rest ih =>
    by_cases hx : x.1 < size
    · rw [List.filter_cons_of_pos (by simpa using hx), cellByte, ih, cellByte]
      by_cases hk : x.1 = k
      · rw [if_pos hk, if_pos hk, if_pos (hk ▸ hx)]
      · rw [if_neg hk, if_neg hk]
    · rw [List.filter_cons_of_neg (by simpa using hx), ih, cellByte]
      by_cases hk : x.1 = k
      · rw [if_neg (hk ▸ hx), if_neg (hk ▸ hx)]
      · rw [if_neg hk]

/-! ### The operations of the image -/

theorem leBytes_length (n : Nat) (v : Word) : (leBytes n v).length = n := by
  induction n generalizing v with
  | zero => rfl
  | succ n ih => simp [leBytes, ih]

/-- An unlisted address at or above `mem_size` reads 0. -/
theorem Memory.byte_above {m : Memory} (h : m.wf = true) {a : Nat} (ha : m.size ≤ a) : m.byte a = 0 :=
  cellByte_above h ha

theorem Memory.holds_iff {m : Memory} {addr : Word} {n : AccessWidth} :
    m.holds addr n = true ↔ addr.toNat + accessBytes n ≤ m.size := by
  simp [Memory.holds]

/-- A read that lies in the image. -/
theorem Memory.read_inside {m : Memory} {addr : Word} {n : AccessWidth} (h : addr.toNat + accessBytes n ≤ m.size) :
    m.read addr n = some (BitVec.ofNat 64 (leValue (m.bytesFrom addr.toNat (accessBytes n)))) := by
  unfold Memory.read
  exact if_pos (Memory.holds_iff.mpr h)

/-- A read that leaves the image does not happen. -/
theorem Memory.read_outside {m : Memory} {addr : Word} {n : AccessWidth} (h : m.size < addr.toNat + accessBytes n) :
    m.read addr n = none := by
  unfold Memory.read
  exact if_neg (fun hh => absurd (Memory.holds_iff.mp hh) (Nat.not_le.mpr h))

/-- A write that lies in the image. -/
theorem Memory.write_inside {m : Memory} {addr : Word} {n : AccessWidth} (v : Word)
    (h : addr.toNat + accessBytes n ≤ m.size) :
    m.write addr n v = some { m with cells := putBytes m.cells addr.toNat (leBytes (accessBytes n) v) } := by
  unfold Memory.write
  exact if_pos (Memory.holds_iff.mpr h)

/-- A write that leaves the image does not happen. -/
theorem Memory.write_outside {m : Memory} {addr : Word} {n : AccessWidth} (v : Word)
    (h : m.size < addr.toNat + accessBytes n) : m.write addr n v = none := by
  unfold Memory.write
  exact if_neg (fun hh => absurd (Memory.holds_iff.mp hh) (Nat.not_le.mpr h))

/-- What a write does: it happens when the access lies in the image, and then changes its cells only. -/
theorem Memory.write_eq_some {m m' : Memory} {addr : Word} {n : AccessWidth} {v : Word}
    (h : m.write addr n v = some m') :
    addr.toNat + accessBytes n ≤ m.size ∧
      m' = { m with cells := putBytes m.cells addr.toNat (leBytes (accessBytes n) v) } := by
  unfold Memory.write Memory.holds at h
  split at h
  · rename_i hh
    exact ⟨by simpa using hh, by simpa using h.symm⟩
  · cases h

theorem Memory.write_wf {m m' : Memory} {addr : Word} {n : AccessWidth} {v : Word} (hm : m.wf = true)
    (h : m.write addr n v = some m') : m'.wf = true := by
  obtain ⟨hb, rfl⟩ := Memory.write_eq_some h
  exact cellsOk_putBytes hm _ (Nat.zero_le _) (by rw [leBytes_length]; exact hb)

theorem Memory.write_size {m m' : Memory} {addr : Word} {n : AccessWidth} {v : Word}
    (h : m.write addr n v = some m') : m'.size = m.size := by
  obtain ⟨-, rfl⟩ := Memory.write_eq_some h
  rfl

/-- What each byte reads as after a write. -/
theorem Memory.write_byte {m m' : Memory} {addr : Word} {n : AccessWidth} {v : Word} (hm : m.wf = true)
    (h : m.write addr n v = some m') (k : Nat) :
    m'.byte k = if addr.toNat ≤ k ∧ k < addr.toNat + accessBytes n
      then (leBytes (accessBytes n) v).getD (k - addr.toNat) 0 else m.byte k := by
  obtain ⟨hb, rfl⟩ := Memory.write_eq_some h
  have := cellByte_putBytes hm (leBytes (accessBytes n) v) (Nat.zero_le addr.toNat)
    (by rw [leBytes_length]; exact hb) k
  rwa [leBytes_length] at this

theorem Memory.grow_wf {m : Memory} (hm : m.wf = true) (bytes : List Byte) : (m.grow bytes).wf = true :=
  cellsOk_append hm (cellsOk_cellsAt _ _) (Nat.zero_le _) (Nat.le_add_right _ _)

/-- What each byte reads as after the image has grown. -/
theorem Memory.grow_byte {m : Memory} (hm : m.wf = true) (bytes : List Byte) (k : Nat) :
    (m.grow bytes).byte k = if k < m.size then m.byte k else bytes.getD (k - m.size) 0 := by
  show cellByte (m.cells ++ cellsAt m.size bytes) k = _
  rw [cellByte_append hm (cellsOk_cellsAt _ _), cellByte_cellsAt]
  by_cases hk : k < m.size
  · rw [if_pos hk, if_pos hk]
    rfl
  · rw [if_neg hk, if_neg hk, if_pos (by omega)]

theorem Memory.shrink_wf {m : Memory} (hm : m.wf = true) (size : Nat) : (m.shrink size).wf = true :=
  cellsOk_filter hm size

/-- What each byte reads as after the image has been cut. -/
theorem Memory.shrink_byte (m : Memory) (size k : Nat) :
    (m.shrink size).byte k = if k < size then m.byte k else 0 :=
  cellByte_filter _ _ _

theorem imageOf_wf (bytes : List Byte) : (imageOf bytes).wf = true := by
  have := cellsOk_cellsAt 0 bytes
  rwa [Nat.zero_add] at this

/-- The image of a byte string reads as its bytes. -/
theorem imageOf_byte (bytes : List Byte) (k : Nat) : (imageOf bytes).byte k = bytes.getD k 0 := by
  show cellByte (cellsAt 0 bytes) k = _
  rw [cellByte_cellsAt, if_pos (Nat.zero_le _), Nat.sub_zero]

/-- The empty image after reset is in canonical form. -/
theorem afterReset_mem_wf (d : ResetDraw) : (State.afterReset d).mem.wf = true := rfl

/-! ### Little-endian byte strings -/

theorem bytesFrom_length (m : Memory) (a n : Nat) : (m.bytesFrom a n).length = n := by
  induction n generalizing a with
  | zero => rfl
  | succ n ih => simp [Memory.bytesFrom, ih]

theorem bytesFrom_getD (m : Memory) (a n i : Nat) (hi : i < n) : (m.bytesFrom a n).getD i 0 = m.byte (a + i) := by
  induction n generalizing a i with
  | zero => omega
  | succ n ih =>
    cases i with
    | zero => simp [Memory.bytesFrom]
    | succ i =>
      rw [Memory.bytesFrom, List.getD_cons_succ, ih (a + 1) i (by omega)]
      congr 1
      omega

/-- A little-endian byte string of a word stands for the word's low bytes. -/
theorem leValue_leBytes (n : Nat) (v : Word) : leValue (leBytes n v) = v.toNat % 256 ^ n := by
  induction n generalizing v with
  | zero => simp [leBytes, leValue, Nat.mod_one]
  | succ n ih =>
    rw [leBytes, leValue, ih]
    simp only [BitVec.toNat_setWidth, BitVec.toNat_ushiftRight, Nat.shiftRight_eq_div_pow]
    rw [show (256 : Nat) ^ (n + 1) = 256 * 256 ^ n by rw [Nat.pow_succ, Nat.mul_comm], Nat.mod_mul]

end Sys2Proof.Machine
end

