-- ==== Sys2Proof/Laws/Ops.lean ====
section
/-! SUPPORT. For each shared operation over handles, slots, the pool and the host's inputs, one lemma that says once all it
can do. -/

namespace Sys2Proof.Machine

/-! ### Operands and data -/

theorem handleOperand_eq (w : Word) : handleOperand w = w.toNat % 2 ^ 16 := by
  simp [handleOperand]

theorem handleOperand_lt (w : Word) : handleOperand w < 65536 := by
  rw [handleOperand_eq]; omega

theorem ioplOperand_toNat (w : Word) : (ioplOperand w).toNat = w.toNat % 256 := by
  simp [ioplOperand]

theorem bitData_eq (b : Bool) : bitData b = if b = true then 1 else 0 := by
  cases b <;> rfl

theorem countData_toNat {n : Nat} (h : n < 2 ^ 64) : (countData n).toNat = n := by
  rw [countData, BitVec.toNat_ofNat, Nat.mod_eq_of_lt h]

/-- `N_HANDLES` is 3..65536 (R5). -/
theorem nHandles_bounds : 3 ≤ Config.nHandles ∧ Config.nHandles ≤ 65536 := by
  unfold Config.nHandles; omega

/-- `DEFAULT_MAX_FILES` is 0..65536 (R5). -/
theorem defaultMaxFiles_le : Config.defaultMaxFiles.toNat ≤ 65536 := by
  simp only [Config.defaultMaxFiles, BitVec.toNat_ofNat]; omega

/-! ### The pool and the table -/

theorem newEntry_eq_some {n : Nat} {hd : Handle} {hp hp' : List Handle} {h : Nat} :
    newEntry n hd hp = some (h, hp') ↔ hp.length < n ∧ h = hp.length ∧ hp' = hp ++ [hd] := by
  unfold newEntry
  split
  · rename_i hlt
    simp only [Option.some.injEq, Prod.mk.injEq, hlt, true_and]
    exact ⟨fun e => ⟨e.1.symm, e.2.symm⟩, fun e => ⟨e.1.symm, e.2.symm⟩⟩
  · rename_i hge
    simp [hge]

theorem newEntry_eq_none {n : Nat} {hd : Handle} {hp : List Handle} : newEntry n hd hp = none ↔ n ≤ hp.length := by
  unfold newEntry
  split <;> simp_all

theorem slotHandle?_eq_some {s : State} {slot h : Nat} {hd : Handle} :
    s.slotHandle? slot = some (h, hd) ↔ s.fd[slot]? = some (some h) ∧ s.hp[h]? = some hd := by
  unfold State.slotHandle?
  split
  · rename_i k hk
    rw [hk]
    split
    · rename_i g hg
      constructor
      · intro e; cases e; exact ⟨rfl, hg⟩
      · rintro ⟨e, e'⟩; cases e; rw [hg] at e'; cases e'; rfl
    · rename_i hg
      constructor
      · intro e; cases e
      · rintro ⟨e, e'⟩; cases e; rw [hg] at e'; cases e'
  · rename_i hk; rw [hk]; simp
  · rename_i hk; rw [hk]; simp

/-- A slot that names no file: past the table, empty, or (in no reachable state) an id that is not `Live`. -/
theorem slotHandle?_eq_none {s : State} {slot : Nat} :
    s.slotHandle? slot = none ↔ ∀ h hd, s.fd[slot]? = some (some h) → s.hp[h]? ≠ some hd := by
  constructor
  · intro hn h hd hf hh
    rw [slotHandle?_eq_some.mpr ⟨hf, hh⟩] at hn
    cases hn
  · intro hall
    match hr : s.slotHandle? slot with
    | none => rfl
    | some (h, hd) =>
      obtain ⟨hf, hh⟩ := slotHandle?_eq_some.mp hr
      exact absurd hh (hall h hd hf)

/-- The slot `FDOPEN` takes is empty and no lower one is. -/
theorem emptySlot?_eq_some {s : State} {slot : Nat} :
    s.emptySlot? = some slot ↔ s.fd[slot]? = some none ∧ ∀ k < slot, s.fd[k]? ≠ some none := by
  unfold State.emptySlot?
  rw [List.findIdx?_eq_some_iff_getElem]
  constructor
  · rintro ⟨hlt, hnone, hlow⟩
    refine ⟨?_, fun k hk => ?_⟩
    · rw [List.getElem?_eq_getElem hlt]
      exact congrArg some (by simpa using hnone)
    · have := hlow k hk
      rw [List.getElem?_eq_getElem (by omega)]
      intro e
      rw [Option.some.inj e] at this
      exact absurd this (by simp)
  · rintro ⟨hs, hlow⟩
    obtain ⟨hlt, hs⟩ := List.getElem?_eq_some_iff.mp hs
    refine ⟨hlt, by rw [hs]; rfl, fun k hk => ?_⟩
    have := hlow k hk
    rw [List.getElem?_eq_getElem (by omega)] at this
    cases hv : s.fd[k]'(by omega) with
    | none => rw [hv] at this; exact absurd rfl this
    | some v => simp

theorem emptySlot?_eq_none {s : State} : s.emptySlot? = none ↔ none ∉ s.fd := by
  unfold State.emptySlot?
  rw [List.findIdx?_eq_none_iff]
  constructor
  · intro h hn
    exact absurd (h none hn) (by simp)
  · intro h x hx
    cases x with
    | none => exact absurd hx h
    | some v => rfl

/-! ### Handles -/

theorem newHandle_inv (caps : BitVec 5) : (newHandle caps).Inv := Nat.le_refl 0

theorem readCount_le_left (n : Word) (hd : Handle) : readCount n hd ≤ hd.buf.length - hd.pos.toNat := Nat.min_le_right _ _

theorem readCount_lt (n : Word) (hd : Handle) : readCount n hd < 2 ^ 64 :=
  Nat.lt_of_le_of_lt (Nat.min_le_left _ _) n.isLt

theorem readData_length (n : Word) (hd : Handle) : (readData n hd).length = readCount n hd := by
  have := readCount_le_left n hd
  simp only [readData, List.length_take, List.length_drop]
  omega

/-- Moving a cursor by `n` never moves it by more, whatever wraps. -/
theorem advance_le (p : Word) (n : Nat) : (p + countData n).toNat ≤ p.toNat + n := by
  rw [BitVec.toNat_add, countData, BitVec.toNat_ofNat]
  have h1 := Nat.mod_le (p.toNat + n % 2 ^ 64) (2 ^ 64)
  have h2 := Nat.mod_le n (2 ^ 64)
  omega

theorem readAdvance_inv {n : Word} {hd : Handle} (h : hd.Inv) : (readAdvance n hd).Inv := by
  have h1 := readCount_le_left n hd
  have h2 := advance_le hd.pos (readCount n hd)
  have h3 : hd.pos.toNat ≤ hd.buf.length := h
  show (hd.pos + countData (readCount n hd)).toNat ≤ hd.buf.length
  omega

theorem writeThrough_append {bytes : List Byte} {hd : Handle} (h : hd.appendonly = true) :
    writeThrough bytes hd = { hd with buf := hd.buf ++ bytes, pos := countData (hd.buf ++ bytes).length } := by
  rw [writeThrough, if_pos h]

theorem writeThrough_overwrite {bytes : List Byte} {hd : Handle} (h : hd.appendonly = false) :
    writeThrough bytes hd =
      { hd with
        buf := hd.buf.take hd.pos.toNat ++ bytes ++ hd.buf.drop (min (hd.pos.toNat + bytes.length) hd.buf.length)
        pos := hd.pos + countData bytes.length } := by
  rw [writeThrough, if_neg (by simp [h])]

/-- How long the buffer is after `FWRITE` through a cursor that lies in it. -/
theorem writeThrough_length {bytes : List Byte} {hd : Handle} (h : hd.Inv) :
    (writeThrough bytes hd).buf.length =
      if hd.appendonly then hd.buf.length + bytes.length else max hd.buf.length (hd.pos.toNat + bytes.length) := by
  have hp : hd.pos.toNat ≤ hd.buf.length := h
  cases ha : hd.appendonly with
  | true => simp [writeThrough_append ha]
  | false =>
    rw [writeThrough_overwrite ha]
    simp only [List.length_append, List.length_take, List.length_drop]
    simp only [Bool.false_eq_true, if_false]
    omega

theorem writeThrough_inv {bytes : List Byte} {hd : Handle} (h : hd.Inv) : (writeThrough bytes hd).Inv := by
  have hp : hd.pos.toNat ≤ hd.buf.length := h
  cases ha : hd.appendonly with
  | true =>
    rw [writeThrough_append ha]
    show (countData (hd.buf ++ bytes).length).toNat ≤ (hd.buf ++ bytes).length
    rw [countData, BitVec.toNat_ofNat]
    exact Nat.mod_le _ _
  | false =>
    have hl := writeThrough_length (bytes := bytes) h
    rw [ha] at hl
    simp only [Bool.false_eq_true, if_false] at hl
    have hs := advance_le hd.pos bytes.length
    show (writeThrough bytes hd).pos.toNat ≤ (writeThrough bytes hd).buf.length
    rw [hl]
    have hpos : (writeThrough bytes hd).pos = hd.pos + countData bytes.length := by
      rw [writeThrough_overwrite ha]
    rw [hpos]
    omega

theorem feed_inv {bytes : List Byte} {hd : Handle} (h : hd.Inv) : (feed bytes hd).Inv := by
  have hp : hd.pos.toNat ≤ hd.buf.length := h
  show hd.pos.toNat ≤ (hd.buf ++ bytes).length
  rw [List.length_append]; omega

/-! ### What the instruction unit sees -/

/-- What shows of the slot at place `i` of a table that starts at slot `k`. -/
def viewAt (hp : List Handle) (k : Nat) (fd : List (Option Nat)) (i : Nat) : Option SlotView :=
  fd[i]?.join.bind fun h => hp[h]?.map (Handle.inSlot (k + i) h)

theorem viewAt_succ (hp : List Handle) (k : Nat) (entry : Option Nat) (fd : List (Option Nat)) (i : Nat) :
    viewAt hp k (entry :: fd) (i + 1) = viewAt hp (k + 1) fd i := by
  simp [viewAt, Nat.add_assoc, Nat.add_comm 1 i]

/-- The first slot, then the others. -/
theorem slotViews_cons (hp : List Handle) (k : Nat) (entry : Option Nat) (fd : List (Option Nat)) :
    slotViews hp k (entry :: fd) = (viewAt hp k (entry :: fd) 0).toList ++ slotViews hp (k + 1) fd := by
  cases entry with
  | none => rfl
  | some h => cases hh : hp[h]? <;> simp [slotViews, viewAt, hh]

/-- The instruction unit sees the occupied slots and nothing else. -/
theorem mem_slotViews {hp : List Handle} {k : Nat} {fd : List (Option Nat)} {v : SlotView} :
    v ∈ slotViews hp k fd ↔ ∃ i, viewAt hp k fd i = some v := by
  induction fd generalizing k with
  | nil => simp [slotViews, viewAt]
  | cons entry fd ih =>
    rw [slotViews_cons, List.mem_append, Option.mem_toList, ih]
    constructor
    · rintro (h | ⟨i, h⟩)
      · exact ⟨0, h⟩
      · exact ⟨i + 1, by rw [viewAt_succ]; exact h⟩
    · rintro ⟨i, h⟩
      cases i with
      | zero => exact .inl h
      | succ i => exact .inr ⟨i, by rw [← viewAt_succ hp k entry]; exact h⟩

/-- Tables that show the same in every place show the same, whatever their capacities. -/
theorem slotViews_congr {hp hp' : List Handle} {k : Nat} {fd fd' : List (Option Nat)}
    (h : ∀ i, viewAt hp k fd i = viewAt hp' k fd' i) : slotViews hp k fd = slotViews hp' k fd' := by
  induction fd generalizing k fd' with
  | nil =>
    refine (List.eq_nil_iff_forall_not_mem.mpr fun v hv => ?_).symm
    obtain ⟨i, hi⟩ := mem_slotViews.mp hv
    rw [← h i] at hi
    simp [viewAt] at hi
  | cons entry fd ih =>
    cases fd' with
    | nil =>
      refine List.eq_nil_iff_forall_not_mem.mpr fun v hv => ?_
      obtain ⟨i, hi⟩ := mem_slotViews.mp hv
      rw [h i] at hi
      simp [viewAt] at hi
    | cons entry' fd' =>
      rw [slotViews_cons, slotViews_cons, h 0, ih fun i => ?_]
      rw [← viewAt_succ hp k entry, ← viewAt_succ hp' k entry']
      exact h (i + 1)

/-! ### The host's inputs -/

/-- The command of port HS that is served next stands in the queue, and the others keep their order. -/
theorem nextHs_eq_some {inputs rest : List HostInput} {c : Command} (h : nextHs inputs = some (c, rest)) :
    ∃ before after, inputs = before ++ .hs c :: after ∧ rest = before ++ after ∧ ∀ x ∈ before, ∃ d, x = .hc d := by
  induction inputs generalizing rest with
  | nil => cases h
  | cons x xs ih =>
    cases x with
    | reset => cases h
    | hs d =>
      cases h
      exact ⟨[], xs, rfl, rfl, by simp⟩
    | hc d =>
      unfold nextHs at h
      split at h
      · rename_i e others he
        cases h
        obtain ⟨b, a, h1, h2, h3⟩ := ih he
        refine ⟨.hc d :: b, a, by rw [h1]; rfl, by rw [h2]; rfl, ?_⟩
        intro y hy
        rcases List.mem_cons.mp hy with rfl | hy
        · exact ⟨d, rfl⟩
        · exact h3 y hy
      · cases h

/-- Commands on HC do not hold up the first command on port HS. -/
theorem nextHs_front {before : List HostInput} (h : ∀ x ∈ before, ∃ d, x = .hc d) (c : Command)
    (after : List HostInput) : nextHs (before ++ .hs c :: after) = some (c, before ++ after) := by
  induction before with
  | nil => rfl
  | cons x xs ih =>
    obtain ⟨d, rfl⟩ := h x (List.mem_cons_self ..)
    rw [List.cons_append, nextHs, ih fun y hy => h y (List.mem_cons_of_mem _ hy)]
    rfl

/-- With no command on port HS ahead of a reset, none is served. -/
theorem nextHs_eq_none {inputs : List HostInput}
    (h : ∀ before c after, inputs = before ++ .hs c :: after → .reset ∈ before) : nextHs inputs = none := by
  cases hn : nextHs inputs with
  | none => rfl
  | some p =>
    obtain ⟨before, after, hi, -, hc⟩ := nextHs_eq_some (c := p.1) (rest := p.2) hn
    obtain ⟨d, hd⟩ := hc _ (h before p.1 after hi)
    cases hd

/-- A command on port HS feeds a handle, or dumps one or is rejected, which changes the response alone. -/
theorem performHs_cases (c : Command) (s : State) :
    (∃ hid bytes hd, s.hp[hid]? = some hd ∧
      performHs c s = (s.setHandle hid (feed bytes hd)).answer (okData (countData bytes.length))) ∨
    ∃ r, performHs c s = s.answer r := by
  unfold performHs
  split
  · rename_i hid bytes _
    unfold hfeed State.handle?
    split
    · exact .inr ⟨_, rfl⟩
    · rename_i hd hh
      exact .inl ⟨_, bytes, hd, hh, rfl⟩
  · unfold hdump
    split <;> exact .inr ⟨_, rfl⟩
  · exact .inr ⟨_, rfl⟩
  · exact .inr ⟨_, rfl⟩

/-- One step, by what the host presented first. -/
theorem step_eq (s : State) :
    step s = match s.inputs with
      | [] => .next s
      | .hc c :: rest => answerOnHc (performHc c { s with inputs := rest })
      | .hs c :: rest => .next (performHs c { s with inputs := rest }).answerHs
      | .reset :: rest => .next (s.resetEvent rest) := rfl

end Sys2Proof.Machine
end

