-- ==== Sys2Proof/Laws/Cycle.lean ====
section
/-! SUPPORT. What the instruction unit can do, said once: the frame of a command on port IU, the principle that a relation
closed under the single accesses holds across a cycle and across the whole loop of `EXEC`, and the outcomes of `INIT` and
`EXEC`. -/

namespace Sys2Proof.Machine

/-! ### The commands both ports issue -/

/-- What no command but `INIT` and `EXEC` touches, and how many slots and entries there are. -/
structure Frame (s t : State) : Prop where
  pc : t.pc = s.pc
  xstate : t.xstate = s.xstate
  initFailed : t.initFailed = s.initFailed
  mem : t.mem = s.mem
  maxMemory : t.maxMemory = s.maxMemory
  stackSize : t.stackSize = s.stackSize
  inputs : t.inputs = s.inputs
  outputs : t.outputs = s.outputs
  draws : t.draws = s.draws
  slots : t.fd.length = s.fd.length

theorem Frame.refl (s : State) : Frame s s := ⟨rfl, rfl, rfl, rfl, rfl, rfl, rfl, rfl, rfl, rfl⟩

theorem answer_frame (s : State) (r : Response) : Frame s (s.answer r) :=
  ⟨rfl, rfl, rfl, rfl, rfl, rfl, rfl, rfl, rfl, rfl⟩

theorem stdioIn_frame (n : Nat) (s : State) : Frame s (stdioIn n s) := by
  unfold stdioIn
  split
  · exact answer_frame s _
  · split
    · exact answer_frame s _
    · split
      · exact answer_frame s _
      · split
        · exact answer_frame s _
        · exact ⟨rfl, rfl, rfl, rfl, rfl, rfl, rfl, rfl, rfl, by simp⟩

theorem hnewIn_frame (n : Nat) (caps : BitVec 5) (s : State) : Frame s (hnewIn n caps s) := by
  unfold hnewIn
  split
  · exact answer_frame s _
  · exact ⟨rfl, rfl, rfl, rfl, rfl, rfl, rfl, rfl, rfl, rfl⟩

theorem install_frame (slot : BitVec 16) (w : Word) (s : State) : Frame s (install slot w s) := by
  unfold install
  split
  · exact answer_frame s _
  · split
    · exact answer_frame s _
    · exact ⟨rfl, rfl, rfl, rfl, rfl, rfl, rfl, rfl, rfl, by simp⟩

theorem fread_frame (slot : BitVec 16) (n : Word) (s : State) : Frame s (fread slot n s) := by
  unfold fread
  split
  · exact answer_frame s _
  · split
    · exact ⟨rfl, rfl, rfl, rfl, rfl, rfl, rfl, rfl, rfl, rfl⟩
    · exact answer_frame s _

theorem fwrite_frame (slot : BitVec 16) (bytes : List Byte) (s : State) : Frame s (fwrite slot bytes s) := by
  unfold fwrite
  split
  · exact answer_frame s _
  · split
    · exact ⟨rfl, rfl, rfl, rfl, rfl, rfl, rfl, rfl, rfl, rfl⟩
    · exact answer_frame s _

theorem hfeed_frame (h : BitVec 16) (bytes : List Byte) (s : State) : Frame s (hfeed h bytes s) := by
  unfold hfeed
  split
  · exact answer_frame s _
  · exact ⟨rfl, rfl, rfl, rfl, rfl, rfl, rfl, rfl, rfl, rfl⟩

theorem hdump_frame (h : BitVec 16) (s : State) : Frame s (hdump h s) := by
  unfold hdump
  split <;> exact answer_frame s _

theorem fdopen_frame (w : Word) (s : State) : Frame s (fdopen w s) := by
  unfold fdopen
  split
  · exact answer_frame s _
  · split
    · exact answer_frame s _
    · exact ⟨rfl, rfl, rfl, rfl, rfl, rfl, rfl, rfl, rfl, by simp⟩

theorem fdclose_frame (slot : BitVec 16) (s : State) : Frame s (fdclose slot s) := by
  unfold fdclose
  split
  · exact ⟨rfl, rfl, rfl, rfl, rfl, rfl, rfl, rfl, rfl, by simp⟩
  · exact answer_frame s _
  · exact answer_frame s _

theorem ioplassign_frame (w : Word) (s : State) : Frame s (ioplassign w s) := by
  unfold ioplassign
  split <;> exact ⟨rfl, rfl, rfl, rfl, rfl, rfl, rfl, rfl, rfl, rfl⟩

/-- The frame of every command on port IU. -/
theorem unitCommand_frame (i : Instr) (s : State) : Frame s (unitCommand i s) := by
  cases i with
  | ioplassign v => exact ioplassign_frame v s
  | fread slot n => exact fread_frame slot n s
  | fwrite slot bytes => exact fwrite_frame slot bytes s
  | fdopen w => exact fdopen_frame w s
  | fdclose slot => exact fdclose_frame slot s
  | _ => exact ⟨rfl, rfl, rfl, rfl, rfl, rfl, rfl, rfl, rfl, rfl⟩

theorem performIu_frame (c : Command) (s : State) : Frame s (performIu c s) := by
  unfold performIu
  split
  · exact unitCommand_frame _ s
  · exact answer_frame s _

/-! ### A cycle and the loop -/

/-- A relation between states that every single act inside a cycle keeps: the commands of port HS that fall in (`host`),
the draw of a fresh value, a command on port IU, and each direct access of the instruction unit. -/
structure AccessClosed (env : Env) (R : State → State → Prop) : Prop where
  refl : ∀ s, R s s
  trans : ∀ {s t u}, R s t → R t u → R s u
  draw : ∀ s, R s { s with draws := s.draws + 1 }
  take : ∀ s c rest, nextHs s.inputs = some (c, rest) → R s { s with inputs := rest }
  host : ∀ c s, R s (performHs c s)
  deliver : ∀ s, R s s.answerHs
  unit : ∀ c s, R s (performIu c s)
  setPc : ∀ v s, R s (s.setPc v)
  write : ∀ s m addr n v, s.mem.write addr n v = some m → R s (s.setMem m)
  grow : ∀ s bytes, s.mayGrow bytes = true → R s (s.setMem (s.mem.grow bytes))
  shrink : ∀ s size, R s (s.setMem (s.mem.shrink size))

variable {env : Env} {R : State → State → Prop}

theorem AccessClosed.serveHs_rel (h : AccessClosed env R) (n : Nat) (s : State) : R s (serveHs n s) := by
  induction n generalizing s with
  | zero => exact h.refl s
  | succ n ih =>
    unfold serveHs
    split
    · rename_i c rest hn
      exact h.trans (h.take s c rest hn) (h.trans (h.host c _) (h.trans (h.deliver _) (ih _)))
    · exact h.refl s

theorem AccessClosed.hostPoint_rel (h : AccessClosed env R) (s : State) : R s (hostPoint env s) :=
  h.trans (h.draw s) (h.serveHs_rel _ _)

theorem AccessClosed.runUnit_rel (h : AccessClosed env R) (p : UnitProgram) (failed : Bool) (s : State) :
    R s (runUnit env p failed s).1 := by
  induction p generalizing failed s with
  | done out => exact h.refl s
  | command c next ih => exact h.trans (h.hostPoint_rel s) (h.trans (h.unit c _) (ih _ failed _))
  | memRead addr n next ih =>
    unfold runUnit
    dsimp only
    split <;> exact h.trans (h.hostPoint_rel s) (ih _ _ _)
  | memWrite addr n v next ih =>
    unfold runUnit
    dsimp only
    split
    · rename_i m hm
      exact h.trans (h.hostPoint_rel s) (h.trans (h.write _ m addr n v hm) (ih _ _ _))
    · exact h.trans (h.hostPoint_rel s) (ih _ _ _)
  | readPc next ih => exact h.trans (h.hostPoint_rel s) (ih _ failed _)
  | writePc v next ih => exact h.trans (h.hostPoint_rel s) (h.trans (h.setPc v _) (ih failed _))
  | memGrow bytes next ih =>
    unfold runUnit
    dsimp only
    split
    · rename_i hg
      exact h.trans (h.hostPoint_rel s) (h.trans (h.grow _ bytes hg) (ih _ _ _))
    · exact h.trans (h.hostPoint_rel s) (ih _ _ _)
  | memShrink size next ih =>
    exact h.trans (h.hostPoint_rel s) (h.trans (h.shrink _ size) (ih failed _))

/-- What the single acts keep, a cycle keeps. -/
theorem AccessClosed.cycle_rel (h : AccessClosed env R) (s : State) : R s (cycle env s).1 :=
  h.trans (h.hostPoint_rel s) (h.trans (h.draw _) (h.runUnit_rel _ _ _))

/-- What the single acts, an exit and the capture of a fault keep, the loop of `EXEC` keeps. -/
theorem AccessClosed.runCycles_rel (h : AccessClosed env R) (hexit : ∀ rc s, R s (s.exitProgram rc))
    (hfault : ∀ k s, R s (s.captureFault k)) (budget n : Nat) (s : State) : R s (runCycles env budget n s).1 := by
  induction budget generalizing n s with
  | zero => exact h.refl s
  | succ b ih =>
    unfold runCycles
    have hc := h.cycle_rel s
    split
    · rename_i t he; rw [he] at hc; exact h.trans hc (ih _ _)
    · rename_i t he; rw [he] at hc; exact hc
    · rename_i t rc he; rw [he] at hc; exact h.trans hc (hexit rc t)
    · rename_i t k he; rw [he] at hc; exact h.trans hc (hfault k t)

/-! ### The loop and the loader, case by case -/

theorem runCycles_zero (n : Nat) (s : State) : runCycles env 0 n s = (s, n, .maxCycles) := rfl

theorem runCycles_succ (b n : Nat) (s : State) :
    runCycles env (b + 1) n s = match cycle env s with
      | (t, .goOn) => runCycles env b (n + 1) t
      | (t, .forfeit) => (t, n + 1, .forfeitTimeslot)
      | (t, .exit rc) => (t.exitProgram rc, n + 1, .terminated)
      | (t, .fault k) => (t.captureFault k, n + 1, .error) := rfl

/-- `EXEC` outside `Running` (R228). -/
theorem execIn_notRunning {s : State} (b : Word) (h : s.xstate ≠ .running) :
    execIn env b s = s.answer (okTag (stopCode .notRunning) 0) := by
  rw [execIn, if_neg h]

/-- `EXEC` in `Running`: the loop's state with the loop's answer. -/
theorem execIn_running {s : State} (b : Word) (h : s.xstate = .running) :
    execIn env b s = (runCycles env b.toNat 0 s).1.answer
      (okTag (stopCode (runCycles env b.toNat 0 s).2.2) (countData (runCycles env b.toNat 0 s).2.1)) := by
  rw [execIn, if_pos h]

/-- What the loader's guard lets through. -/
theorem loadImage_eq_some {ops : LoadOperands} {r : LoadResult} :
    loadImage env ops = some r ↔
      env.load ops = some r ∧ r.image.length ≤ ops.maxMemory.toNat ∧ ops.stackSize.toNat ≤ r.image.length := by
  unfold loadImage
  split
  · rename_i he; simp [he]
  · rename_i x he
    rw [he]
    split
    · rename_i hb
      constructor
      · intro e; cases e; exact ⟨rfl, hb⟩
      · rintro ⟨e, -⟩; exact e
    · rename_i hb
      constructor
      · intro e; cases e
      · rintro ⟨e, hr⟩; cases e; exact absurd hr hb

/-- All that `INIT` can do (R222). -/
theorem initIn_cases (env : Env) (bytes : List Byte) (s : State) :
    (initOperands bytes = none ∧ initIn env bytes s = s.rejectCommand) ∨
    ∃ ops, initOperands bytes = some ops ∧
      (((s.xstate ≠ .uninitialized ∨ s.initFailed = true) ∧ initIn env bytes s = s.answer (errorResponse .badState)) ∨
       (s.xstate = .uninitialized ∧ s.initFailed = false ∧ initIn env bytes s = s.initFails) ∨
       ∃ r, s.xstate = .uninitialized ∧ s.initFailed = false ∧ (loadOperands env ops).maxFiles.toNat ≤ 65536 ∧
         loadImage env (loadOperands env ops) = some r ∧
         initIn env bytes s = s.initSucceeds (loadOperands env ops) r) := by
  unfold initIn
  split
  · rename_i he; exact .inl ⟨he, rfl⟩
  · rename_i ops he
    refine .inr ⟨ops, he, ?_⟩
    split
    · rename_i hb; exact .inl ⟨hb, rfl⟩
    · rename_i hb
      have hx : s.xstate = .uninitialized := by
        by_contra hx; exact hb (.inl hx)
      have hf : s.initFailed = false := by
        cases hf : s.initFailed with
        | false => rfl
        | true => exact absurd (.inr hf) hb
      split
      · exact .inr (.inl ⟨hx, hf, rfl⟩)
      · rename_i hm
        split
        · exact .inr (.inl ⟨hx, hf, rfl⟩)
        · rename_i r hr
          exact .inr (.inr ⟨r, hx, hf, by omega, hr, rfl⟩)

end Sys2Proof.Machine
end

