-- ==== Sys2Proof/Laws/Decode.lean ====
section
/-! SUPPORT. The fields of a packed command word, and the code tables read back. -/

namespace Sys2Proof

theorem opField_toNat (cmd : BitVec 32) : (opField cmd).toNat = cmd.toNat / 2 ^ 24 % 2 ^ 8 := by
  simp [opField, Nat.shiftRight_eq_div_pow]

theorem selField_toNat (cmd : BitVec 32) : (selField cmd).toNat = cmd.toNat / 2 ^ 16 % 2 ^ 8 := by
  simp [selField, Nat.shiftRight_eq_div_pow]

theorem idxField_toNat (cmd : BitVec 32) : (idxField cmd).toNat = cmd.toNat % 2 ^ 16 := by
  simp [idxField]

theorem packFields_toNat (op sel : BitVec 8) (idx : BitVec 16) :
    (packFields op sel idx).toNat = op.toNat * 2 ^ 24 + sel.toNat * 2 ^ 16 + idx.toNat := by
  have h1 := op.isLt
  have h2 := sel.isLt
  have h3 := idx.isLt
  rw [packFields, BitVec.toNat_ofNat]
  omega

@[simp] theorem opField_packFields (op sel : BitVec 8) (idx : BitVec 16) : opField (packFields op sel idx) = op := by
  have h2 := sel.isLt
  have h3 := idx.isLt
  apply BitVec.eq_of_toNat_eq
  rw [opField_toNat, packFields_toNat]
  omega

@[simp] theorem selField_packFields (op sel : BitVec 8) (idx : BitVec 16) :
    selField (packFields op sel idx) = sel := by
  have h2 := sel.isLt
  have h3 := idx.isLt
  apply BitVec.eq_of_toNat_eq
  rw [selField_toNat, packFields_toNat]
  omega

@[simp] theorem idxField_packFields (op sel : BitVec 8) (idx : BitVec 16) :
    idxField (packFields op sel idx) = idx := by
  have h3 := idx.isLt
  apply BitVec.eq_of_toNat_eq
  rw [idxField_toNat, packFields_toNat]
  omega

/-- A command word is its three fields. -/
theorem packFields_fields (cmd : BitVec 32) : packFields (opField cmd) (selField cmd) (idxField cmd) = cmd := by
  have h := cmd.isLt
  apply BitVec.eq_of_toNat_eq
  rw [packFields_toNat, opField_toNat, selField_toNat, idxField_toNat]
  omega

@[simp] theorem viewOfCode_codeOfView (v : View) : viewOfCode (codeOfView v) = some v := by cases v <;> rfl

@[simp] theorem flagOfId_idOfFlag (f : Flag) : flagOfId (idOfFlag f) = some f := by cases f <;> rfl

@[simp] theorem condOfId_idOfCond (c : CondCode) : condOfId (idOfCond c) = some c := by cases c <;> rfl

/-- A selector that is a view code is the code of its view. -/
theorem codeOfView_of_viewOfCode {sel : BitVec 8} {v : View} (h : viewOfCode sel = some v) : codeOfView v = sel := by
  revert h v
  revert sel
  decide

/-- A selector that is a flag id is the id of its flag. -/
theorem idOfFlag_of_flagOfId {sel : BitVec 8} {f : Flag} (h : flagOfId sel = some f) : idOfFlag f = sel := by
  revert h f
  revert sel
  decide

/-- A selector that is a condition-code id is the id of its condition code. -/
theorem idOfCond_of_condOfId {sel : BitVec 8} {c : CondCode} (h : condOfId sel = some c) : idOfCond c = sel := by
  revert h c
  revert sel
  decide

/-- What a command is read as, by the fields of its word. -/
theorem decode_of_fields {word : BitVec 32} {op sel : BitVec 8} {idx : BitVec 16} (hop : opField word = op)
    (hsel : selField word = sel) (hidx : idxField word = idx) (wdata : Word) (payload : List Byte) :
    decode { cmd := word, wdata := wdata, payload := payload } = decodeFields op sel idx wdata payload := by
  subst hop hsel hidx
  rfl

/-- All that format `N` accepts. -/
theorem formatN_eq_ok {sel : BitVec 8} {idx : BitVec 16} {j i : Instr} :
    formatN sel idx j = .ok i ↔ sel = 0 ∧ idx = 0 ∧ i = j := by
  unfold formatN
  constructor
  · intro h
    split at h
    · cases h
    · split at h
      · cases h
      · cases h; exact ⟨by simp_all, by simp_all, rfl⟩
  · rintro ⟨rfl, rfl, rfl⟩; rfl

/-- All that format `R` accepts. -/
theorem formatR_eq_ok {sel : BitVec 8} {idx : BitVec 16} {mk : View → RegIdx → Instr} {i : Instr} :
    formatR sel idx mk = .ok i ↔
      ∃ v reg, sel = codeOfView v ∧ idx = BitVec.ofNat 16 reg.val ∧ (v.isHigh = true → highReg reg = true) ∧
        i = mk v reg := by
  constructor
  · intro h
    unfold formatR at h
    split at h
    · cases h
    · rename_i v hv
      split at h
      · rename_i hl
        split at h
        · cases h
        · rename_i hh
          cases h
          refine ⟨v, ⟨_, hl⟩, (codeOfView_of_viewOfCode hv).symm, by simp, ?_, rfl⟩
          intro hi
          simpa [hi] using hh
      · cases h
  · rintro ⟨v, reg, rfl, rfl, hh, rfl⟩
    have hl : (BitVec.ofNat 16 reg.val).toNat = reg.val := by
      rw [BitVec.toNat_ofNat]
      exact Nat.mod_eq_of_lt (by have := reg.isLt; omega)
    simp only [formatR, viewOfCode_codeOfView, hl, reg.isLt, dite_true, Fin.eta]
    split
    · rename_i hbad
      simp only [Bool.and_eq_true, Bool.not_eq_true'] at hbad
      rw [hh hbad.1] at hbad
      exact absurd hbad.2 (by simp)
    · rfl

/-- All that format `F` accepts with a flag id. -/
theorem formatFlag_eq_ok {sel : BitVec 8} {idx : BitVec 16} {mk : Flag → Instr} {i : Instr} :
    formatFlag sel idx mk = .ok i ↔ ∃ f, sel = idOfFlag f ∧ idx = 0 ∧ i = mk f := by
  constructor
  · intro h
    unfold formatFlag at h
    split at h
    · cases h
    · rename_i f hf
      split at h
      · cases h
      · cases h; exact ⟨f, (idOfFlag_of_flagOfId hf).symm, by simp_all, rfl⟩
  · rintro ⟨f, rfl, rfl, rfl⟩
    simp [formatFlag]

/-- All that format `F` accepts with a condition-code id. -/
theorem formatCond_eq_ok {sel : BitVec 8} {idx : BitVec 16} {mk : CondCode → Instr} {i : Instr} :
    formatCond sel idx mk = .ok i ↔ ∃ c, sel = idOfCond c ∧ idx = 0 ∧ i = mk c := by
  constructor
  · intro h
    unfold formatCond at h
    split at h
    · cases h
    · rename_i c hc
      split at h
      · cases h
      · cases h; exact ⟨c, (idOfCond_of_condOfId hc).symm, by simp_all, rfl⟩
  · rintro ⟨c, rfl, rfl, rfl⟩
    simp [formatCond]

/-- A selector with its three high bits 0 is its five capability bits. -/
theorem capabilityBits (sel : BitVec 8) (h : sel.extractLsb' 5 3 = 0) : (sel.extractLsb' 0 5).setWidth 8 = sel := by
  revert h
  revert sel
  decide

/-- All that format `K` accepts. -/
theorem formatK_eq_ok {sel : BitVec 8} {idx : BitVec 16} {mk : BitVec 5 → Instr} {i : Instr} :
    formatK sel idx mk = .ok i ↔ ∃ caps : BitVec 5, sel = caps.setWidth 8 ∧ idx = 0 ∧ i = mk caps := by
  constructor
  · intro h
    unfold formatK at h
    split at h
    · cases h
    · rename_i hk
      split at h
      · cases h
      · cases h
        exact ⟨_, (capabilityBits sel (by simpa using hk)).symm, by simp_all, rfl⟩
  · rintro ⟨caps, rfl, rfl, rfl⟩
    have h : (caps.setWidth 8).extractLsb' 5 3 = 0 ∧ (caps.setWidth 8).extractLsb' 0 5 = caps := by
      revert caps; decide
    simp [formatK, h.1, h.2]

/-- All that formats `S` and `H` accept. -/
theorem formatIdx_eq_ok {sel : BitVec 8} {idx : BitVec 16} {mk : BitVec 16 → Instr} {i : Instr} :
    formatIdx sel idx mk = .ok i ↔ sel = 0 ∧ i = mk idx := by
  unfold formatIdx
  constructor
  · intro h
    split at h
    · cases h
    · cases h; exact ⟨by simp_all, rfl⟩
  · rintro ⟨rfl, rfl⟩; rfl

end Sys2Proof
end

