-- ==== Sys2Proof/Laws/Fields.lean ====
section
/-! SUPPORT. Bit fields, views and flags, bit by bit: what a field write leaves, what a view reads. -/

namespace Sys2Proof.Machine

/-- A bit of the field mask. -/
theorem getLsbD_fieldMask (lo width i : Nat) (hi : i < 64) :
    (fieldMask lo width).getLsbD i = (decide (lo ≤ i) && decide (i - lo < width)) := by
  by_cases h : i < lo
  · simp [fieldMask, h, hi, Nat.not_le.mpr h]
  · have hle : lo ≤ i := by omega
    simp [fieldMask, hi, hle, Nat.not_lt.mpr hle]

/-- A bit of a word after a field write: the value's inside the field, the old one outside it. -/
theorem getLsbD_replaceField (lo width : Nat) (old v : Word) (i : Nat) (hi : i < 64) :
    (replaceField lo width old v).getLsbD i =
      if lo ≤ i ∧ i < lo + width then v.getLsbD (i - lo) else old.getLsbD i := by
  have hm := getLsbD_fieldMask lo width i hi
  simp only [replaceField, BitVec.getLsbD_or, BitVec.getLsbD_and, BitVec.getLsbD_not, BitVec.getLsbD_shiftLeft, hm]
  by_cases h1 : lo ≤ i <;> by_cases h2 : i < lo + width
  · have h3 : i - lo < width := by omega
    simp [h1, h2, h3, hi, Nat.not_lt.mpr h1]
  · have h3 : ¬ i - lo < width := by omega
    simp [h1, h2, h3, hi]
  · simp [h1, hi]
  · simp [h1, hi]

/-- The width and the place of a view fit a register. -/
theorem viewLow_add_viewWidth_le (v : View) : viewLow v + viewWidth v ≤ 64 := by cases v <;> decide

theorem viewWidth_pos (v : View) : 0 < viewWidth v := by cases v <;> decide

/-- A bit of what a view reads: the field's own bits, then its extension. -/
theorem getLsbD_viewRead (v : View) (x : Word) (i : Nat) (hi : i < 64) :
    (viewRead v x).getLsbD i =
      if i < viewWidth v then x.getLsbD (viewLow v + i)
      else viewSigned v && x.getLsbD (viewLow v + (viewWidth v - 1)) := by
  have hp := viewWidth_pos v
  unfold viewRead
  cases hs : viewSigned v
  · by_cases h : i < viewWidth v <;> simp [h, hi]
  · by_cases h : i < viewWidth v
    · simp only [if_true, BitVec.getLsbD_signExtend, h, hi]
      simp [h]
    · simp only [if_true, BitVec.getLsbD_signExtend, h, hi, BitVec.msb_eq_getLsbD_last]
      simp [hp]

/-- A bit of a register after a write through a view. -/
theorem getLsbD_viewWrite (v : View) (x value : Word) (i : Nat) (hi : i < 64) :
    (viewWrite v x value).getLsbD i =
      if viewLow v ≤ i ∧ i < viewLow v + viewWidth v then value.getLsbD (i - viewLow v) else x.getLsbD i :=
  getLsbD_replaceField _ _ _ _ _ hi

theorem flagBit_lt (f : Flag) : flagBit f < 64 := by cases f <;> decide

theorem flagBit_injective (f g : Flag) (h : flagBit f = flagBit g) : f = g := by
  cases f <;> cases g <;> first | rfl | (exact absurd h (by decide))

/-- A bit of the flags word after a flag is put. -/
theorem getLsbD_flagPut (f : Flag) (b : Bool) (flags : Word) (i : Nat) (hi : i < 64) :
    (flagPut f b flags).getLsbD i = if i = flagBit f then b else flags.getLsbD i := by
  rw [flagPut, getLsbD_replaceField _ _ _ _ _ hi]
  by_cases h : i = flagBit f
  · subst h
    simp [bitData]
  · rw [if_neg (by omega), if_neg h]

/-- What a flag reads after a flag is put. -/
theorem flagGet_flagPut (f g : Flag) (b : Bool) (flags : Word) :
    flagGet g (flagPut f b flags) = if g = f then b else flagGet g flags := by
  rw [flagGet, getLsbD_flagPut _ _ _ _ (flagBit_lt g)]
  by_cases h : g = f
  · simp [h]
  · have : flagBit g ≠ flagBit f := fun e => h (flagBit_injective g f e)
    simp [h, this, flagGet]

/-- A bit of the flags word after the IOPL field is put. -/
theorem getLsbD_ioplPut (level flags : Word) (i : Nat) (hi : i < 64) :
    (ioplPut level flags).getLsbD i = if 12 ≤ i ∧ i < 14 then level.getLsbD (i - 12) else flags.getLsbD i :=
  getLsbD_replaceField _ _ _ _ _ hi

end Sys2Proof.Machine
end

