-- ==== Sys2Proof/Laws/PerInstr.lean ====
section
/-! SUPPORT. A statement made per instruction: the opcode of the encoded command is the one R87 lists for it. -/

namespace Sys2Proof.Laws

/-- The opcode R87 lists for a command. -/
def listedOpcode : Instr → BitVec 8
  | .rgetU64 _ => 0x10#8
  | .rgetI64 _ => 0x10#8
  | .rgetF64 _ => 0x10#8
  | .rgetU32 _ => 0x10#8
  | .rgetI32 _ => 0x10#8
  | .rgetF32 _ => 0x10#8
  | .rgetU16 _ => 0x10#8
  | .rgetI16 _ => 0x10#8
  | .rgetU8 _ => 0x10#8
  | .rgetI8 _ => 0x10#8
  | .rgetU8H _ => 0x10#8
  | .rgetI8H _ => 0x10#8
  | .rsetU64 _ _ => 0x11#8
  | .rsetI64 _ _ => 0x11#8
  | .rsetF64 _ _ => 0x11#8
  | .rsetU32 _ _ => 0x11#8
  | .rsetI32 _ _ => 0x11#8
  | .rsetF32 _ _ => 0x11#8
  | .rsetU16 _ _ => 0x11#8
  | .rsetI16 _ _ => 0x11#8
  | .rsetU8 _ _ => 0x11#8
  | .rsetI8 _ _ => 0x11#8
  | .rsetU8H _ _ => 0x11#8
  | .rsetI8H _ _ => 0x11#8
  | .fgetCF => 0x20#8
  | .fgetPF => 0x20#8
  | .fgetAF => 0x20#8
  | .fgetZF => 0x20#8
  | .fgetSF => 0x20#8
  | .fgetTF => 0x20#8
  | .fgetIF => 0x20#8
  | .fgetDF => 0x20#8
  | .fgetOF => 0x20#8
  | .fgetNT => 0x20#8
  | .fgetRF => 0x20#8
  | .fgetVM => 0x20#8
  | .fgetAC => 0x20#8
  | .fgetVIF => 0x20#8
  | .fgetVIP => 0x20#8
  | .fgetID => 0x20#8
  | .fgetCT => 0x20#8
  | .fassignCF _ => 0x21#8
  | .fassignPF _ => 0x21#8
  | .fassignAF _ => 0x21#8
  | .fassignZF _ => 0x21#8
  | .fassignSF _ => 0x21#8
  | .fassignTF _ => 0x21#8
  | .fassignIF _ => 0x21#8
  | .fassignDF _ => 0x21#8
  | .fassignOF _ => 0x21#8
  | .fassignNT _ => 0x21#8
  | .fassignRF _ => 0x21#8
  | .fassignVM _ => 0x21#8
  | .fassignAC _ => 0x21#8
  | .fassignVIF _ => 0x21#8
  | .fassignVIP _ => 0x21#8
  | .fassignID _ => 0x21#8
  | .fassignCT _ => 0x21#8
  | .ioplget => 0x22#8
  | .ioplassign _ => 0x23#8
  | .flagsget => 0x24#8
  | .flagsset _ => 0x25#8
  | .ccB => 0x26#8
  | .ccBE => 0x26#8
  | .ccA => 0x26#8
  | .ccAE => 0x26#8
  | .ccL => 0x26#8
  | .ccLE => 0x26#8
  | .ccG => 0x26#8
  | .ccGE => 0x26#8
  | .init _ => 0x30#8
  | .exec _ => 0x31#8
  | .stateget => 0x32#8
  | .errget => 0x33#8
  | .retget => 0x34#8
  | .stdio => 0x40#8
  | .hnew _ => 0x41#8
  | .install _ _ => 0x42#8
  | .fread _ _ => 0x43#8
  | .fwrite _ _ => 0x44#8
  | .hfeed _ _ => 0x45#8
  | .hdump _ => 0x46#8
  | .fdopen _ => 0x47#8
  | .fdclose _ => 0x48#8

/-- The encoded command word carries the listed opcode. -/
def OpcodeListed.Statement (i : Instr) : Prop := opField (encode i).cmd = listedOpcode i

namespace OpcodeListed

theorem rgetU64 (reg : RegIdx) : Statement (.rgetU64 reg) :=
  opField_packFields ..

theorem rgetI64 (reg : RegIdx) : Statement (.rgetI64 reg) :=
  opField_packFields ..

theorem rgetF64 (reg : RegIdx) : Statement (.rgetF64 reg) :=
  opField_packFields ..

theorem rgetU32 (reg : RegIdx) : Statement (.rgetU32 reg) :=
  opField_packFields ..

theorem rgetI32 (reg : RegIdx) : Statement (.rgetI32 reg) :=
  opField_packFields ..

theorem rgetF32 (reg : RegIdx) : Statement (.rgetF32 reg) :=
  opField_packFields ..

theorem rgetU16 (reg : RegIdx) : Statement (.rgetU16 reg) :=
  opField_packFields ..

theorem rgetI16 (reg : RegIdx) : Statement (.rgetI16 reg) :=
  opField_packFields ..

theorem rgetU8 (reg : RegIdx) : Statement (.rgetU8 reg) :=
  opField_packFields ..

theorem rgetI8 (reg : RegIdx) : Statement (.rgetI8 reg) :=
  opField_packFields ..

theorem rgetU8H (reg : RegIdx) : Statement (.rgetU8H reg) :=
  opField_packFields ..

theorem rgetI8H (reg : RegIdx) : Statement (.rgetI8H reg) :=
  opField_packFields ..

theorem rsetU64 (reg : RegIdx) (value : Word) : Statement (.rsetU64 reg value) :=
  opField_packFields ..

theorem rsetI64 (reg : RegIdx) (value : Word) : Statement (.rsetI64 reg value) :=
  opField_packFields ..

theorem rsetF64 (reg : RegIdx) (value : Word) : Statement (.rsetF64 reg value) :=
  opField_packFields ..

theorem rsetU32 (reg : RegIdx) (value : Word) : Statement (.rsetU32 reg value) :=
  opField_packFields ..

theorem rsetI32 (reg : RegIdx) (value : Word) : Statement (.rsetI32 reg value) :=
  opField_packFields ..

theorem rsetF32 (reg : RegIdx) (value : Word) : Statement (.rsetF32 reg value) :=
  opField_packFields ..

theorem rsetU16 (reg : RegIdx) (value : Word) : Statement (.rsetU16 reg value) :=
  opField_packFields ..

theorem rsetI16 (reg : RegIdx) (value : Word) : Statement (.rsetI16 reg value) :=
  opField_packFields ..

theorem rsetU8 (reg : RegIdx) (value : Word) : Statement (.rsetU8 reg value) :=
  opField_packFields ..

theorem rsetI8 (reg : RegIdx) (value : Word) : Statement (.rsetI8 reg value) :=
  opField_packFields ..

theorem rsetU8H (reg : RegIdx) (value : Word) : Statement (.rsetU8H reg value) :=
  opField_packFields ..

theorem rsetI8H (reg : RegIdx) (value : Word) : Statement (.rsetI8H reg value) :=
  opField_packFields ..

theorem fgetCF : Statement (.fgetCF) :=
  opField_packFields ..

theorem fgetPF : Statement (.fgetPF) :=
  opField_packFields ..

theorem fgetAF : Statement (.fgetAF) :=
  opField_packFields ..

theorem fgetZF : Statement (.fgetZF) :=
  opField_packFields ..

theorem fgetSF : Statement (.fgetSF) :=
  opField_packFields ..

theorem fgetTF : Statement (.fgetTF) :=
  opField_packFields ..

theorem fgetIF : Statement (.fgetIF) :=
  opField_packFields ..

theorem fgetDF : Statement (.fgetDF) :=
  opField_packFields ..

theorem fgetOF : Statement (.fgetOF) :=
  opField_packFields ..

theorem fgetNT : Statement (.fgetNT) :=
  opField_packFields ..

theorem fgetRF : Statement (.fgetRF) :=
  opField_packFields ..

theorem fgetVM : Statement (.fgetVM) :=
  opField_packFields ..

theorem fgetAC : Statement (.fgetAC) :=
  opField_packFields ..

theorem fgetVIF : Statement (.fgetVIF) :=
  opField_packFields ..

theorem fgetVIP : Statement (.fgetVIP) :=
  opField_packFields ..

theorem fgetID : Statement (.fgetID) :=
  opField_packFields ..

theorem fgetCT : Statement (.fgetCT) :=
  opField_packFields ..

theorem fassignCF (value : Word) : Statement (.fassignCF value) :=
  opField_packFields ..

theorem fassignPF (value : Word) : Statement (.fassignPF value) :=
  opField_packFields ..

theorem fassignAF (value : Word) : Statement (.fassignAF value) :=
  opField_packFields ..

theorem fassignZF (value : Word) : Statement (.fassignZF value) :=
  opField_packFields ..

theorem fassignSF (value : Word) : Statement (.fassignSF value) :=
  opField_packFields ..

theorem fassignTF (value : Word) : Statement (.fassignTF value) :=
  opField_packFields ..

theorem fassignIF (value : Word) : Statement (.fassignIF value) :=
  opField_packFields ..

theorem fassignDF (value : Word) : Statement (.fassignDF value) :=
  opField_packFields ..

theorem fassignOF (value : Word) : Statement (.fassignOF value) :=
  opField_packFields ..

theorem fassignNT (value : Word) : Statement (.fassignNT value) :=
  opField_packFields ..

theorem fassignRF (value : Word) : Statement (.fassignRF value) :=
  opField_packFields ..

theorem fassignVM (value : Word) : Statement (.fassignVM value) :=
  opField_packFields ..

theorem fassignAC (value : Word) : Statement (.fassignAC value) :=
  opField_packFields ..

theorem fassignVIF (value : Word) : Statement (.fassignVIF value) :=
  opField_packFields ..

theorem fassignVIP (value : Word) : Statement (.fassignVIP value) :=
  opField_packFields ..

theorem fassignID (value : Word) : Statement (.fassignID value) :=
  opField_packFields ..

theorem fassignCT (value : Word) : Statement (.fassignCT value) :=
  opField_packFields ..

theorem ioplget : Statement (.ioplget) :=
  opField_packFields ..

theorem ioplassign (value : Word) : Statement (.ioplassign value) :=
  opField_packFields ..

theorem flagsget : Statement (.flagsget) :=
  opField_packFields ..

theorem flagsset (value : Word) : Statement (.flagsset value) :=
  opField_packFields ..

theorem ccB : Statement (.ccB) :=
  opField_packFields ..

theorem ccBE : Statement (.ccBE) :=
  opField_packFields ..

theorem ccA : Statement (.ccA) :=
  opField_packFields ..

theorem ccAE : Statement (.ccAE) :=
  opField_packFields ..

theorem ccL : Statement (.ccL) :=
  opField_packFields ..

theorem ccLE : Statement (.ccLE) :=
  opField_packFields ..

theorem ccG : Statement (.ccG) :=
  opField_packFields ..

theorem ccGE : Statement (.ccGE) :=
  opField_packFields ..

theorem init (bytes : List Byte) : Statement (.init bytes) :=
  opField_packFields ..

theorem exec (budget : Word) : Statement (.exec budget) :=
  opField_packFields ..

theorem stateget : Statement (.stateget) :=
  opField_packFields ..

theorem errget : Statement (.errget) :=
  opField_packFields ..

theorem retget : Statement (.retget) :=
  opField_packFields ..

theorem stdio : Statement (.stdio) :=
  opField_packFields ..

theorem hnew (caps : BitVec 5) : Statement (.hnew caps) :=
  opField_packFields ..

theorem install (slot : BitVec 16) (handle : Word) : Statement (.install slot handle) :=
  opField_packFields ..

theorem fread (slot : BitVec 16) (count : Word) : Statement (.fread slot count) :=
  opField_packFields ..

theorem fwrite (slot : BitVec 16) (bytes : List Byte) : Statement (.fwrite slot bytes) :=
  opField_packFields ..

theorem hfeed (hid : BitVec 16) (bytes : List Byte) : Statement (.hfeed hid bytes) :=
  opField_packFields ..

theorem hdump (hid : BitVec 16) : Statement (.hdump hid) :=
  opField_packFields ..

theorem fdopen (handle : Word) : Statement (.fdopen handle) :=
  opField_packFields ..

theorem fdclose (slot : BitVec 16) : Statement (.fdclose slot) :=
  opField_packFields ..

end OpcodeListed

end Sys2Proof.Laws
end

