-- ==== Sys2Proof/Tests/Slice0.lean ====
section
/-! SUPPORT. The model's own tests. Expected words and values are transcribed from spec/95_test_vectors.md (the vector is named
in each comment) and from the encodings each command's rule writes out. The theorems `witness_…` show that the hypotheses of
the statements of Certificates/Slice0 are met. -/

namespace Sys2Proof.Tests

open Sys2Proof.Machine Sys2Proof.Claims

/-! ### Well-formedness: the one check, with a term it refuses for each command that has it -/

theorem test_wellFormed_refuses_highByte :
    (Instr.rgetU8H 4).wellFormed = false ∧ (Instr.rgetI8H 15).wellFormed = false ∧
    (Instr.rsetU8H 4 1).wellFormed = false ∧ (Instr.rsetI8H 15 1).wellFormed = false := by decide

theorem test_wellFormed_accepts_highByte :
    (Instr.rgetU8H 3).wellFormed = true ∧ (Instr.rgetI8H 0).wellFormed = true ∧
    (Instr.rsetU8H 3 1).wellFormed = true ∧ (Instr.rsetI8H 0 1).wellFormed = true := by decide

/-! ### Decoding: every constructor's word, written out from its own rule -/

/-- The word with `wdata = 5` and payload `61 62`. -/
def read (cmd : BitVec 32) : Except Reject Instr := decode { cmd := cmd, wdata := 5#64, payload := [0x61#8, 0x62#8] }

/-- R113 to R124, at the last register of each view. -/
theorem test_decode_rget :
    read 0x1000000F#32 = .ok (.rgetU64 15) ∧
    read 0x1001000F#32 = .ok (.rgetI64 15) ∧
    read 0x1002000F#32 = .ok (.rgetF64 15) ∧
    read 0x1010000F#32 = .ok (.rgetU32 15) ∧
    read 0x1011000F#32 = .ok (.rgetI32 15) ∧
    read 0x1012000F#32 = .ok (.rgetF32 15) ∧
    read 0x1020000F#32 = .ok (.rgetU16 15) ∧
    read 0x1021000F#32 = .ok (.rgetI16 15) ∧
    read 0x1030000F#32 = .ok (.rgetU8 15) ∧
    read 0x1031000F#32 = .ok (.rgetI8 15) ∧
    read 0x10400003#32 = .ok (.rgetU8H 3) ∧
    read 0x10410003#32 = .ok (.rgetI8H 3) := by decide

/-- R125 to R136. -/
theorem test_decode_rset :
    read 0x1100000F#32 = .ok (.rsetU64 15 5) ∧
    read 0x1101000F#32 = .ok (.rsetI64 15 5) ∧
    read 0x1102000F#32 = .ok (.rsetF64 15 5) ∧
    read 0x1110000F#32 = .ok (.rsetU32 15 5) ∧
    read 0x1111000F#32 = .ok (.rsetI32 15 5) ∧
    read 0x1112000F#32 = .ok (.rsetF32 15 5) ∧
    read 0x1120000F#32 = .ok (.rsetU16 15 5) ∧
    read 0x1121000F#32 = .ok (.rsetI16 15 5) ∧
    read 0x1130000F#32 = .ok (.rsetU8 15 5) ∧
    read 0x1131000F#32 = .ok (.rsetI8 15 5) ∧
    read 0x11400003#32 = .ok (.rsetU8H 3 5) ∧
    read 0x11410003#32 = .ok (.rsetI8H 3 5) := by decide

/-- F1 to F17. -/
theorem test_decode_fget :
    read 0x20000000#32 = .ok .fgetCF ∧
    read 0x20010000#32 = .ok .fgetPF ∧
    read 0x20020000#32 = .ok .fgetAF ∧
    read 0x20030000#32 = .ok .fgetZF ∧
    read 0x20040000#32 = .ok .fgetSF ∧
    read 0x20050000#32 = .ok .fgetTF ∧
    read 0x20060000#32 = .ok .fgetIF ∧
    read 0x20070000#32 = .ok .fgetDF ∧
    read 0x20080000#32 = .ok .fgetOF ∧
    read 0x20090000#32 = .ok .fgetNT ∧
    read 0x200A0000#32 = .ok .fgetRF ∧
    read 0x200B0000#32 = .ok .fgetVM ∧
    read 0x200C0000#32 = .ok .fgetAC ∧
    read 0x200D0000#32 = .ok .fgetVIF ∧
    read 0x200E0000#32 = .ok .fgetVIP ∧
    read 0x200F0000#32 = .ok .fgetID ∧
    read 0x20100000#32 = .ok .fgetCT := by decide

/-- F1 to F17. -/
theorem test_decode_fassign :
    read 0x21000000#32 = .ok (.fassignCF 5) ∧
    read 0x21010000#32 = .ok (.fassignPF 5) ∧
    read 0x21020000#32 = .ok (.fassignAF 5) ∧
    read 0x21030000#32 = .ok (.fassignZF 5) ∧
    read 0x21040000#32 = .ok (.fassignSF 5) ∧
    read 0x21050000#32 = .ok (.fassignTF 5) ∧
    read 0x21060000#32 = .ok (.fassignIF 5) ∧
    read 0x21070000#32 = .ok (.fassignDF 5) ∧
    read 0x21080000#32 = .ok (.fassignOF 5) ∧
    read 0x21090000#32 = .ok (.fassignNT 5) ∧
    read 0x210A0000#32 = .ok (.fassignRF 5) ∧
    read 0x210B0000#32 = .ok (.fassignVM 5) ∧
    read 0x210C0000#32 = .ok (.fassignAC 5) ∧
    read 0x210D0000#32 = .ok (.fassignVIF 5) ∧
    read 0x210E0000#32 = .ok (.fassignVIP 5) ∧
    read 0x210F0000#32 = .ok (.fassignID 5) ∧
    read 0x21100000#32 = .ok (.fassignCT 5) := by decide

/-- R186 to R189. -/
theorem test_decode_flags_words :
    read 0x22000000#32 = .ok .ioplget ∧
    read 0x23000000#32 = .ok (.ioplassign 5) ∧
    read 0x24000000#32 = .ok .flagsget ∧
    read 0x25000000#32 = .ok (.flagsset 5) := by decide

/-- R196 to R203. -/
theorem test_decode_cc :
    read 0x26000000#32 = .ok .ccB ∧
    read 0x26010000#32 = .ok .ccBE ∧
    read 0x26020000#32 = .ok .ccA ∧
    read 0x26030000#32 = .ok .ccAE ∧
    read 0x26040000#32 = .ok .ccL ∧
    read 0x26050000#32 = .ok .ccLE ∧
    read 0x26060000#32 = .ok .ccG ∧
    read 0x26070000#32 = .ok .ccGE := by decide

/-- R222 to R226. -/
theorem test_decode_engine :
    read 0x30000000#32 = .ok (.init [0x61#8, 0x62#8]) ∧
    read 0x31000000#32 = .ok (.exec 5) ∧
    read 0x32000000#32 = .ok .stateget ∧
    read 0x33000000#32 = .ok .errget ∧
    read 0x34000000#32 = .ok .retget := by decide

/-- R262 to R272, T1 to T22. -/
theorem test_decode_files :
    read 0x40000000#32 = .ok .stdio ∧
    read 0x41110000#32 = .ok (.hnew 0b10001#5) ∧
    read 0x41030000#32 = .ok (.hnew 0b00011#5) ∧
    read 0x42000003#32 = .ok (.install 3#16 5) ∧
    read 0x4300FFFF#32 = .ok (.fread 0xFFFF#16 5) ∧
    read 0x44000001#32 = .ok (.fwrite 1#16 [0x61#8, 0x62#8]) ∧
    read 0x45000000#32 = .ok (.hfeed 0#16 [0x61#8, 0x62#8]) ∧
    read 0x46000001#32 = .ok (.hdump 1#16) ∧
    read 0x47000000#32 = .ok (.fdopen 5) ∧
    read 0x48000004#32 = .ok (.fdclose 4#16) := by decide

/-- The illegal words of 3.1 and 3.2, V35, V36 and T5. -/
theorem test_decode_rejects_operands :
    read 0x10400004#32 = .error .highByteRegister ∧
    read 0x1141000F#32 = .error .highByteRegister ∧
    read 0x10000010#32 = .error .indexNotZero ∧
    read 0x10220000#32 = .error .unknownView ∧
    read 0x10030000#32 = .error .unknownView ∧
    read 0x11320001#32 = .error .unknownView ∧
    read 0x10001000#32 = .error .indexNotZero ∧
    read 0x20110000#32 = .error .unknownFlag ∧
    read 0x21000001#32 = .error .indexNotZero ∧
    read 0x26080000#32 = .error .unknownCondition ∧
    read 0x41200000#32 = .error .selectorNotZero := by decide

/-- 3.5. -/
theorem test_decode_rejects_words :
    read 0x00000000#32 = .error .unknownOpcode ∧
    read 0x12000000#32 = .error .unknownOpcode ∧
    read 0x27000000#32 = .error .unknownOpcode ∧
    read 0x35000000#32 = .error .unknownOpcode ∧
    read 0x49000000#32 = .error .unknownOpcode ∧
    read 0xFF000000#32 = .error .unknownOpcode ∧
    read 0x31010000#32 = .error .selectorNotZero ∧
    read 0x24000001#32 = .error .indexNotZero ∧
    read 0x43010000#32 = .error .selectorNotZero ∧
    read 0x46FF0001#32 = .error .selectorNotZero := by decide

theorem test_table_word :
    decodeTableWord 32 0x41110000 = some (.hnew 0b10001#5) ∧
    decodeTableWord 32 0x10220000 = none := by decide

/-- The `INIT` payload R96's vector writes out, of 42 bytes. -/
def fullPayload : List Byte :=
  [0x0F#8, 0x00#8, 0x00#8, 0x01#8, 0x00#8, 0x00#8, 0x00#8, 0x00#8, 0x00#8, 0x00#8, 0x10#8, 0x00#8, 0x00#8, 0x00#8, 0x00#8,
   0x00#8, 0x00#8, 0x08#8, 0x00#8, 0x00#8, 0x00#8, 0x00#8, 0x00#8, 0x00#8, 0x00#8, 0x02#8, 0x00#8, 0x00#8, 0x00#8] ++
  [0x01#8, 0x00#8, 0x00#8, 0x00#8, 0x61#8, 0x02#8, 0x00#8, 0x00#8, 0x00#8, 0x62#8, 0x63#8, 0xDE#8, 0xAD#8]

/-- The operands it carries. -/
def fullOperands : InitOperands where
  maxMemory := some 0x10000
  stackSize := some 0x1000
  maxFiles := some 8
  args := some [[0x61#8], [0x62#8, 0x63#8]]
  exe := [0xDE#8, 0xAD#8]

/-- Part 2, the `INIT` row. -/
theorem test_init_payload : initOperands fullPayload = some fullOperands ∧ initPayload fullOperands = fullPayload := by
  decide

/-! ### One command on port HC -/

/-- The state after the block has served one command on port HC. -/
def served (cmd : BitVec 32) (wdata : Word) (payload : List Byte) (s : State) : State :=
  match step { s with inputs := [.hc { cmd := cmd, wdata := wdata, payload := payload }] } with
  | .next t => t
  | .fault _ => s
  | .refused _ => s

/-- A register and what it holds. -/
def holding (reg : RegIdx) (x : Word) : State := State.reset.setReg reg x

/-- `rdata` after one command, with the status. -/
def answered (cmd : BitVec 32) (s : State) : Status × Word :=
  ((served cmd 0 [] s).resp.status, (served cmd 0 [] s).resp.rdata)

/-- V3. -/
theorem test_rgetU64 :
    answered 0x10000002#32 (holding 2 0xFEDCBA988765C3A5#64) = (.ok, 0xFEDCBA988765C3A5#64) := by decide

/-- V4. -/
theorem test_rgetI64 :
    answered 0x10010002#32 (holding 2 0xFEDCBA988765C3A5#64) = (.ok, 0xFEDCBA988765C3A5#64) := by decide

/-- V5. -/
theorem test_rgetF64 :
    answered 0x10020002#32 (holding 2 0xFEDCBA988765C3A5#64) = (.ok, 0xFEDCBA988765C3A5#64) := by decide

/-- V6. -/
theorem test_rgetU32 :
    answered 0x10100002#32 (holding 2 0xFEDCBA988765C3A5#64) = (.ok, 0x8765C3A5#64) := by decide

/-- V7. -/
theorem test_rgetI32 :
    answered 0x10110002#32 (holding 2 0xFEDCBA988765C3A5#64) = (.ok, 0xFFFFFFFF8765C3A5#64) := by decide

/-- V8. -/
theorem test_rgetF32 :
    answered 0x10120002#32 (holding 2 0xFEDCBA988765C3A5#64) = (.ok, 0x8765C3A5#64) := by decide

/-- V9. -/
theorem test_rgetU16 :
    answered 0x10200002#32 (holding 2 0xFEDCBA988765C3A5#64) = (.ok, 0xC3A5#64) := by decide

/-- V10. -/
theorem test_rgetI16 :
    answered 0x10210002#32 (holding 2 0xFEDCBA988765C3A5#64) = (.ok, 0xFFFFFFFFFFFFC3A5#64) := by decide

/-- V11. -/
theorem test_rgetU8 :
    answered 0x10300002#32 (holding 2 0xFEDCBA988765C3A5#64) = (.ok, 0xA5#64) := by decide

/-- V12. -/
theorem test_rgetI8 :
    answered 0x10310002#32 (holding 2 0xFEDCBA988765C3A5#64) = (.ok, 0xFFFFFFFFFFFFFFA5#64) := by decide

/-- V13. -/
theorem test_rgetU8H :
    answered 0x10400002#32 (holding 2 0xFEDCBA988765C3A5#64) = (.ok, 0xC3#64) := by decide

/-- V14. -/
theorem test_rgetI8H :
    answered 0x10410002#32 (holding 2 0xFEDCBA988765C3A5#64) = (.ok, 0xFFFFFFFFFFFFFFC3#64) := by decide

/-- V1. -/
theorem test_rsetU64 :
    (served 0x11000005#32 0xDEADBEEFCAFEF00D#64 [] (holding 5 0x1122334455667788#64)).regs = (holding 5 0xDEADBEEFCAFEF00D#64).regs := by decide

/-- R126. -/
theorem test_rsetI64 :
    (served 0x11010005#32 0xFFFFFFFFFFFFFFFF#64 [] (holding 5 0x1122334455667788#64)).regs = (holding 5 0xFFFFFFFFFFFFFFFF#64).regs := by decide

/-- V27. -/
theorem test_rsetF64 :
    (served 0x11020001#32 0x7FF8000000000001#64 [] (holding 1 0x1122334455667788#64)).regs = (holding 1 0x7FF8000000000001#64).regs := by decide

/-- V22. -/
theorem test_rsetU32 :
    (served 0x1110000F#32 0xCAFEBABE#64 [] (holding 15 0x1122334455667788#64)).regs = (holding 15 0x11223344CAFEBABE#64).regs := by decide

/-- V23. -/
theorem test_rsetI32 :
    (served 0x1111000F#32 0xFFFFFFFFFFFFFFFF#64 [] (holding 15 0x1122334455667788#64)).regs = (holding 15 0x11223344FFFFFFFF#64).regs := by decide

/-- V24. -/
theorem test_rsetF32 :
    (served 0x11120001#32 0x3F800000#64 [] (holding 1 0x1122334455667788#64)).regs = (holding 1 0x112233443F800000#64).regs := by decide

/-- V20. -/
theorem test_rsetU16 :
    (served 0x11200009#32 0xBEEF#64 [] (holding 9 0x1122334455667788#64)).regs = (holding 9 0x112233445566BEEF#64).regs := by decide

/-- V21. -/
theorem test_rsetI16 :
    (served 0x11210009#32 0xFFFFFFFFFFFFFFFE#64 [] (holding 9 0x1122334455667788#64)).regs = (holding 9 0x112233445566FFFE#64).regs := by decide

/-- V16. -/
theorem test_rsetU8 :
    (served 0x11300007#32 0xFFFFFFFFFFFFFFAB#64 [] (holding 7 0x1122334455667788#64)).regs = (holding 7 0x11223344556677AB#64).regs := by decide

/-- V17. -/
theorem test_rsetI8 :
    (served 0x11310002#32 0xFFFFFFFFFFFFFF80#64 [] (holding 2 0x1122334455667788#64)).regs = (holding 2 0x1122334455667780#64).regs := by decide

/-- V18. -/
theorem test_rsetU8H :
    (served 0x11400003#32 0xAA#64 [] (holding 3 0x1122334455667788#64)).regs = (holding 3 0x112233445566AA88#64).regs := by decide

/-- V19. -/
theorem test_rsetI8H :
    (served 0x11410000#32 0xFFFFFFFFFFFFFFFF#64 [] (holding 0 0x1122334455667788#64)).regs = (holding 0 0x112233445566FF88#64).regs := by decide

/-- A flags word. -/
def flagged (f : Word) : State := State.reset.setFlags f

/-- F1 to F17, the column of G. -/
theorem test_fget :
    answered 0x20000000#32 (flagged 0x0000000100000881#64) = (.ok, 1) ∧
    answered 0x20010000#32 (flagged 0x0000000100000881#64) = (.ok, 0) ∧
    answered 0x20020000#32 (flagged 0x0000000100000881#64) = (.ok, 0) ∧
    answered 0x20030000#32 (flagged 0x0000000100000881#64) = (.ok, 0) ∧
    answered 0x20040000#32 (flagged 0x0000000100000881#64) = (.ok, 1) ∧
    answered 0x20050000#32 (flagged 0x0000000100000881#64) = (.ok, 0) ∧
    answered 0x20060000#32 (flagged 0x0000000100000881#64) = (.ok, 0) ∧
    answered 0x20070000#32 (flagged 0x0000000100000881#64) = (.ok, 0) ∧
    answered 0x20080000#32 (flagged 0x0000000100000881#64) = (.ok, 1) ∧
    answered 0x20090000#32 (flagged 0x0000000100000881#64) = (.ok, 0) ∧
    answered 0x200A0000#32 (flagged 0x0000000100000881#64) = (.ok, 0) ∧
    answered 0x200B0000#32 (flagged 0x0000000100000881#64) = (.ok, 0) ∧
    answered 0x200C0000#32 (flagged 0x0000000100000881#64) = (.ok, 0) ∧
    answered 0x200D0000#32 (flagged 0x0000000100000881#64) = (.ok, 0) ∧
    answered 0x200E0000#32 (flagged 0x0000000100000881#64) = (.ok, 0) ∧
    answered 0x200F0000#32 (flagged 0x0000000100000881#64) = (.ok, 0) ∧
    answered 0x20100000#32 (flagged 0x0000000100000881#64) = (.ok, 1) := by decide

/-- F1 to F17, assigned 1 from 0. -/
theorem test_fassign_one :
    (served 0x21000000#32 1 [] (flagged 0)).flags = 0x1#64 ∧
    (served 0x21010000#32 1 [] (flagged 0)).flags = 0x4#64 ∧
    (served 0x21020000#32 1 [] (flagged 0)).flags = 0x10#64 ∧
    (served 0x21030000#32 1 [] (flagged 0)).flags = 0x40#64 ∧
    (served 0x21040000#32 1 [] (flagged 0)).flags = 0x80#64 ∧
    (served 0x21050000#32 1 [] (flagged 0)).flags = 0x100#64 ∧
    (served 0x21060000#32 1 [] (flagged 0)).flags = 0x200#64 ∧
    (served 0x21070000#32 1 [] (flagged 0)).flags = 0x400#64 ∧
    (served 0x21080000#32 1 [] (flagged 0)).flags = 0x800#64 ∧
    (served 0x21090000#32 1 [] (flagged 0)).flags = 0x4000#64 ∧
    (served 0x210A0000#32 1 [] (flagged 0)).flags = 0x10000#64 ∧
    (served 0x210B0000#32 1 [] (flagged 0)).flags = 0x20000#64 ∧
    (served 0x210C0000#32 1 [] (flagged 0)).flags = 0x40000#64 ∧
    (served 0x210D0000#32 1 [] (flagged 0)).flags = 0x80000#64 ∧
    (served 0x210E0000#32 1 [] (flagged 0)).flags = 0x100000#64 ∧
    (served 0x210F0000#32 1 [] (flagged 0)).flags = 0x200000#64 ∧
    (served 0x21100000#32 1 [] (flagged 0)).flags = 0x100000000#64 := by decide

/-- F1 to F17, assigned 0 from all ones; wdata 2 has bit 0 clear. -/
theorem test_fassign_zero :
    (served 0x21000000#32 2 [] (flagged 0xFFFFFFFFFFFFFFFF#64)).flags = 0xFFFFFFFFFFFFFFFE#64 ∧
    (served 0x21010000#32 2 [] (flagged 0xFFFFFFFFFFFFFFFF#64)).flags = 0xFFFFFFFFFFFFFFFB#64 ∧
    (served 0x21020000#32 2 [] (flagged 0xFFFFFFFFFFFFFFFF#64)).flags = 0xFFFFFFFFFFFFFFEF#64 ∧
    (served 0x21030000#32 2 [] (flagged 0xFFFFFFFFFFFFFFFF#64)).flags = 0xFFFFFFFFFFFFFFBF#64 ∧
    (served 0x21040000#32 2 [] (flagged 0xFFFFFFFFFFFFFFFF#64)).flags = 0xFFFFFFFFFFFFFF7F#64 ∧
    (served 0x21050000#32 2 [] (flagged 0xFFFFFFFFFFFFFFFF#64)).flags = 0xFFFFFFFFFFFFFEFF#64 ∧
    (served 0x21060000#32 2 [] (flagged 0xFFFFFFFFFFFFFFFF#64)).flags = 0xFFFFFFFFFFFFFDFF#64 ∧
    (served 0x21070000#32 2 [] (flagged 0xFFFFFFFFFFFFFFFF#64)).flags = 0xFFFFFFFFFFFFFBFF#64 ∧
    (served 0x21080000#32 2 [] (flagged 0xFFFFFFFFFFFFFFFF#64)).flags = 0xFFFFFFFFFFFFF7FF#64 ∧
    (served 0x21090000#32 2 [] (flagged 0xFFFFFFFFFFFFFFFF#64)).flags = 0xFFFFFFFFFFFFBFFF#64 ∧
    (served 0x210A0000#32 2 [] (flagged 0xFFFFFFFFFFFFFFFF#64)).flags = 0xFFFFFFFFFFFEFFFF#64 ∧
    (served 0x210B0000#32 2 [] (flagged 0xFFFFFFFFFFFFFFFF#64)).flags = 0xFFFFFFFFFFFDFFFF#64 ∧
    (served 0x210C0000#32 2 [] (flagged 0xFFFFFFFFFFFFFFFF#64)).flags = 0xFFFFFFFFFFFBFFFF#64 ∧
    (served 0x210D0000#32 2 [] (flagged 0xFFFFFFFFFFFFFFFF#64)).flags = 0xFFFFFFFFFFF7FFFF#64 ∧
    (served 0x210E0000#32 2 [] (flagged 0xFFFFFFFFFFFFFFFF#64)).flags = 0xFFFFFFFFFFEFFFFF#64 ∧
    (served 0x210F0000#32 2 [] (flagged 0xFFFFFFFFFFFFFFFF#64)).flags = 0xFFFFFFFFFFDFFFFF#64 ∧
    (served 0x21100000#32 2 [] (flagged 0xFFFFFFFFFFFFFFFF#64)).flags = 0xFFFFFFFEFFFFFFFF#64 := by decide

/-- F37. -/
theorem test_ioplget :
    answered 0x22000000#32 (flagged 0x2040#64) = (.ok, 2) := by decide

/-- F32, F35, F36. -/
theorem test_ioplassign :
    (served 0x23000000#32 3#64 [] (flagged 0x40#64)).flags = 0x3040#64 ∧
    (served 0x23000000#32 0x100#64 [] (flagged 0x3040#64)).flags = 0x40#64 ∧
    (served 0x23000000#32 2#64 [] (flagged 0xFFFFFFFFFFFFFFFF#64)).flags = 0xFFFFFFFFFFFFEFFF#64 := by decide

/-- F33. -/
theorem test_ioplassign_outOfBounds :
    served 0x23000000#32 4#64 [] (flagged 0x3040#64) =
      ((flagged 0x3040#64).answer { status := .outOfBounds, rdata := 4 }).answerHc := by decide

/-- F39. -/
theorem test_flagsget :
    answered 0x24000000#32 (flagged 0xFFFFFFFFFFFFFFFF#64) = (.ok, 0xFFFFFFFFFFFFFFFF#64) := by decide

/-- F38. -/
theorem test_flagsset :
    (served 0x25000000#32 0xFFFFFFFFFFFFFFFF#64 [] State.reset).flags = 0xFFFFFFFFFFFFFFFF#64 := by decide

/-- The eight condition codes of a flags word, in the order of their ids. -/
def codes (f : Word) : List Word :=
  [(answered 0x26000000#32 (flagged f)).2, (answered 0x26010000#32 (flagged f)).2, (answered 0x26020000#32 (flagged f)).2,
   (answered 0x26030000#32 (flagged f)).2, (answered 0x26040000#32 (flagged f)).2, (answered 0x26050000#32 (flagged f)).2,
   (answered 0x26060000#32 (flagged f)).2, (answered 0x26070000#32 (flagged f)).2]

/-- F40, F41, F42, F44, F45, F46, F48, F52. -/
theorem test_cc :
    codes 0x0#64 = [0, 0, 1, 1, 0, 0, 1, 1] ∧
    codes 0x1#64 = [1, 1, 0, 0, 0, 0, 1, 1] ∧
    codes 0x40#64 = [0, 1, 0, 1, 0, 1, 0, 1] ∧
    codes 0x80#64 = [0, 0, 1, 1, 1, 1, 0, 0] ∧
    codes 0x800#64 = [0, 0, 1, 1, 1, 1, 0, 0] ∧
    codes 0x880#64 = [0, 0, 1, 1, 0, 0, 1, 1] ∧
    codes 0x8C1#64 = [1, 1, 0, 0, 0, 1, 0, 1] ∧
    codes 0xFFFFFFFFFFFFF73E#64 = [0, 0, 1, 1, 0, 0, 1, 1] := by decide

/-! ### The engine, with a scripted instruction unit -/

/-- A configuration whose instruction unit follows a script: the `n`-th draw selects the `n`-th program (a cycle takes two
draws: the point for port HS, then its own). -/
def scripted (script : List UnitProgram) : Env where
  insnStep := fun _ draw => script.getD (draw / 2) (.done .goOn)
  load := fun ops => if ops.exe = [0xDE#8, 0xAD#8] then
    some { regs := Vector.replicate 16 0, flags := 0, pc := 0x100, image := [0x11#8, 0x22#8, 0x33#8, 0x44#8] } else none
  maxMemory := 4
  stackSize := 2
  maxFiles := 8
  args := []
  nHandles := 8
  hostCommands := fun _ => 0

/-- `Running`, with an image of four bytes. -/
def running : State :=
  { State.reset with xstate := .running, maxMemory := 4, mem := imageOf [0x11#8, 0x22#8, 0x33#8, 0x44#8] }

/-- What an `EXEC` answered and left in `xstate`. -/
def outcome (script : List CycleOutcome) (budget : Word) (s : State) : Word × BitVec 8 × XState :=
  let t := execIn (scripted (script.map .done)) budget s
  (t.resp.rdata, t.resp.rtag, t.xstate)

/-- E1, E2, E3. -/
theorem test_exec_notRunning :
    outcome [] 5 State.reset = (0, 0, .uninitialized) ∧
    outcome [] 0xFFFFFFFFFFFFFFFF#64 { running with xstate := .terminated 7 } = (0, 0, .terminated 7) ∧
    outcome [] 1 { running with xstate := .error .invalidMemoryAccess } = (0, 0, .error .invalidMemoryAccess) := by decide

/-- E4 to E8a, E9a, E10 to E13. -/
theorem test_exec_outcomes :
    outcome [] 0 running = (0, 1, .running) ∧
    outcome [.goOn, .goOn, .goOn, .goOn] 3 running = (3, 1, .running) ∧
    outcome [.goOn, .goOn, .exit 7] 10 running = (3, 3, .terminated 7) ∧
    outcome [.goOn, .goOn, .exit 7] 3 running = (3, 3, .terminated 7) ∧
    outcome [.goOn, .goOn, .exit 7] 2 running = (2, 1, .running) ∧
    outcome [.goOn, .forfeit, .goOn, .exit 0] 10 running = (2, 2, .running) ∧
    outcome [.fault .illegalInstruction] 10 running = (1, 4, .error .illegalInstruction) ∧
    outcome [.exit (-1)] 1 running = (1, 3, .terminated (-1)) ∧
    outcome [.goOn, .forfeit] 2 running = (2, 2, .running) ∧
    outcome [.goOn, .exit 42] 0xFFFFFFFFFFFFFFFF#64 running = (2, 3, .terminated 42) := by decide

/-- `rtag` and `rdata` of an inspection command in an execution state. -/
def inspected (cmd : BitVec 32) (x : XState) : BitVec 8 × Word :=
  ((served cmd 0 [] { running with xstate := x }).resp.rtag, (served cmd 0 [] { running with xstate := x }).resp.rdata)

/-- 3.3, state inspection. -/
theorem test_stateget :
    inspected 0x32000000#32 .uninitialized = (0, 0) ∧
    inspected 0x32000000#32 .running = (1, 0) ∧
    inspected 0x32000000#32 (.terminated (-2147483648)) = (2, 0xFFFFFFFF80000000#64) ∧
    inspected 0x32000000#32 (.error (.unitKind 196)) = (3, 200) := by decide

/-- 3.3, state inspection. -/
theorem test_errget :
    inspected 0x33000000#32 .running = (0, 0) ∧
    inspected 0x33000000#32 (.terminated 7) = (0, 0) ∧
    inspected 0x33000000#32 (.error .arithmeticFault) = (1, 3) := by decide

/-- 3.3, state inspection. -/
theorem test_retget :
    inspected 0x34000000#32 (.error .invalidMemoryAccess) = (0, 0) ∧
    inspected 0x34000000#32 (.terminated 0) = (1, 0) ∧
    inspected 0x34000000#32 (.terminated (-1)) = (1, 0xFFFFFFFFFFFFFFFF#64) := by decide

/-- The 31-byte payload `GOOD` of 3.3: no operand present, executable `DE AD`. -/
def good : List Byte := List.replicate 29 0 ++ [0xDE#8, 0xAD#8]

/-- Status, `xstate`, `init_failed`, `fd_cap` and `mem_size` after an `INIT`. -/
def initialised (bytes : List Byte) (s : State) : Status × XState × Bool × Nat × Nat :=
  let t := initIn (scripted []) bytes s
  (t.resp.status, t.xstate, t.initFailed, t.fdCap, t.mem.size)

/-- I1, I9. -/
theorem test_init_ok :
    initialised good State.reset = (.ok, .running, false, 8, 4) ∧
    initialised (0x04#8 :: List.replicate 28 0 ++ [0xDE#8, 0xAD#8]) State.reset = (.ok, .running, false, 0, 4) := by decide

/-- I2, I3, I4; the `INIT` of I3 has an executable the loader does not accept. -/
theorem test_init_refused :
    initialised good running = (.badState, .running, false, 0, 4) ∧
    initialised (List.replicate 29 0) State.reset = (.initError, .uninitialized, true, 0, 0) ∧
    initialised good { State.reset with initFailed := true } = (.badState, .uninitialized, true, 0, 0) := by decide

/-- I5 to I8. -/
theorem test_init_malformed :
    initialised (List.replicate 28 0) State.reset = (.badCommand, .uninitialized, false, 0, 0) ∧
    initialised (0x80#8 :: List.replicate 28 0) State.reset = (.badCommand, .uninitialized, false, 0, 0) ∧
    initialised (List.replicate 25 0 ++ [1#8, 0#8, 0#8, 0#8]) State.reset = (.badCommand, .uninitialized, false, 0, 0) ∧
    initialised ([0x04#8] ++ List.replicate 16 0 ++ [1#8, 0#8, 1#8] ++ List.replicate 9 0) State.reset =
      (.initError, .uninitialized, true, 0, 0) := by decide

/-- Program P5: the second cycle reads eight bytes past the end of the image. -/
def faulting : List UnitProgram :=
  [.command { cmd := 0x11000000#32, wdata := 0x2000 } fun _ => .writePc 0x108 (.done .goOn),
   .memRead 0x2000 .b8 fun _ => .done .goOn]

/-- P5. The first cycle takes four draws: the point before it, its own, and one before each of its two accesses. -/
theorem test_program_fault :
    let t := execIn (scripted (faulting.flatMap fun p => [p, p])) 100 running
    t.resp.rtag = 4 ∧ t.resp.rdata = 2 ∧ t.xstate = .error .invalidMemoryAccess ∧ t.reg 0 = 0x2000 ∧ t.pc = 0x108 ∧
    t.mem = running.mem := by decide +kernel

/-! ### Handles -/

/-- Standard input, output and error in slots 0, 1, 2 of a table of eight, as T1 leaves them. -/
def wired : State :=
  { State.reset with
    fd := [some 0, some 1, some 2, none, none, none, none, none]
    hp := [FreshHandle true false false false true, FreshHandle false true false true false,
           FreshHandle false true false true false] }

/-- As T6 leaves it: an ordinary read-write handle 3 in slot 3. -/
def ordinary (buf : List Byte) (pos : Word) : State :=
  { wired with
    fd := [some 0, some 1, some 2, some 3, none, none, none, none]
    hp := wired.hp ++ [{ FreshHandle true true false false false with buf := buf, pos := pos }] }

/-- Status, `rdata`, `rpayload` and the handle with this id. -/
def filed (cmd : BitVec 32) (wdata : Word) (payload : List Byte) (h : Nat) (s : State) :
    Status × Word × List Byte × Option (List Byte × Word) :=
  let t := served cmd wdata payload s
  (t.resp.status, t.resp.rdata, t.resp.rpayload, t.hp[h]?.map fun hd => (hd.buf, hd.pos))

/-- T1, with a pool of eight entries. -/
theorem test_stdio :
    stdioIn 8 { State.reset with fd := List.replicate 8 none } =
      { wired with resp := { rdata := 0x0000000200010000#64 } } := by decide

/-- T2, T3. -/
theorem test_stdio_refused :
    (stdioIn 8 { State.reset with fd := [none, none] }).resp.status = .badSlot ∧
    stdioIn 4 { wired with hp := wired.hp.take 2 } = { wired with hp := wired.hp.take 2, resp := { status := .noHandle } } := by
  decide

/-- T4, and a full pool. -/
theorem test_hnew :
    (hnewIn 8 0b00011#5 wired).hp = (ordinary [] 0).hp ∧ (hnewIn 8 0b00011#5 wired).resp.rdata = 3 ∧
    (hnewIn 3 0b00011#5 wired).resp.status = .noHandle := by decide

/-- T6 to T9. -/
theorem test_install :
    (served 0x42000003#32 3 [] { wired with hp := (ordinary [] 0).hp }).fd = (ordinary [] 0).fd ∧
    (served 0x42000008#32 3 [] (ordinary [] 0)).resp.status = .badSlot ∧
    (served 0x42000001#32 9 [] (ordinary [] 0)).resp.status = .badHandle ∧
    (served 0x42000001#32 3 [] (ordinary [] 0)).fd[1]? = some (some 3) := by decide

/-- 3.4, ordinary handle, steps 3 and 5; T12 with a cursor at 2. -/
theorem test_fread :
    filed 0x43000003#32 2 [] 3 (ordinary [0x58#8, 0x59#8, 0x63#8, 0x64#8, 0x65#8, 0x66#8] 2) =
      (.ok, 2, [0x63#8, 0x64#8], some ([0x58#8, 0x59#8, 0x63#8, 0x64#8, 0x65#8, 0x66#8], 4)) ∧
    filed 0x43000003#32 16 [] 3 (ordinary [0x68#8, 0x69#8, 0x0A#8] 2) =
      (.ok, 1, [0x0A#8], some ([0x68#8, 0x69#8, 0x0A#8], 3)) := by decide

/-- T15, T16, T17. -/
theorem test_fread_refused :
    (served 0x43000001#32 4 [] wired).resp.status = .permissionDenied ∧
    (served 0x43000005#32 4 [] wired).resp.status = .badSlot ∧
    (served 0x43000008#32 4 [] wired).resp.status = .badSlot := by decide

/-- 3.4, ordinary handle, steps 2 and 4. -/
theorem test_fwrite :
    filed 0x44000003#32 0 [0x58#8, 0x59#8] 3 (ordinary [0x61#8, 0x62#8, 0x63#8, 0x64#8, 0x65#8, 0x66#8] 0) =
      (.ok, 2, [], some ([0x58#8, 0x59#8, 0x63#8, 0x64#8, 0x65#8, 0x66#8], 2)) ∧
    filed 0x44000003#32 0 [0x31#8, 0x32#8, 0x33#8] 3 (ordinary [0x58#8, 0x59#8, 0x63#8, 0x64#8, 0x65#8, 0x66#8] 4) =
      (.ok, 3, [], some ([0x58#8, 0x59#8, 0x63#8, 0x64#8, 0x31#8, 0x32#8, 0x33#8], 7)) := by decide

/-- 3.4, append-only handle, step 3 (`ab`, cursor 1, writes `Z`); T19. -/
theorem test_fwrite_append :
    filed 0x44000001#32 0 [0x5A#8] 1 { wired with hp := [FreshHandle true false false false true,
        { FreshHandle true true false true false with buf := [0x61#8, 0x62#8], pos := 1 }] } =
      (.ok, 1, [], some ([0x61#8, 0x62#8, 0x5A#8], 3)) ∧
    (served 0x44000000#32 0 [0x78#8] wired).resp.status = .permissionDenied := by decide

/-- T10 and T21. -/
theorem test_hfeed :
    filed 0x45000000#32 0 [0x68#8, 0x69#8, 0x0A#8] 0 wired = (.ok, 3, [], some ([0x68#8, 0x69#8, 0x0A#8], 0)) ∧
    (served 0x45000009#32 0 [0x78#8] wired).resp.status = .badHandle := by decide

/-- T14 and T22. -/
theorem test_hdump :
    filed 0x46000003#32 0 [] 3 (ordinary [0x68#8, 0x69#8, 0x0A#8] 3) =
      (.ok, 3, [0x68#8, 0x69#8, 0x0A#8], some ([0x68#8, 0x69#8, 0x0A#8], 3)) ∧
    filed 0x46000001#32 0 [] 1 wired = (.ok, 0, [], some ([], 0)) := by decide

/-- 3.4, allocation, steps 2, 6 and 8. -/
theorem test_fdopen :
    (served 0x47000000#32 3 [] (ordinary [] 0)).fd[4]? = some (some 3) ∧
    (served 0x47000000#32 3 [] (ordinary [] 0)).resp.rdata = 4 ∧
    (served 0x47000000#32 9 [] (ordinary [] 0)).resp.status = .badHandle ∧
    (served 0x47000000#32 3 [] { ordinary [] 0 with fd := [some 3] }).resp.status = .tableFull := by decide

/-- 3.4, allocation, steps 4 and 5. -/
theorem test_fdclose :
    (served 0x48000003#32 0 [] (ordinary [] 0)).fd = wired.fd ∧ (served 0x48000003#32 0 [] (ordinary [] 0)).hp.length = 4 ∧
    (served 0x48000003#32 0 [] wired).resp.status = .badSlot := by decide

/-! ### Ports and the host -/

/-- 3.5: port rights on HS and IU. -/
theorem test_ports :
    (performHs { cmd := 0x10000000#32 } wired).resp.status = .badCommand ∧
    (performHs { cmd := 0x45000000#32, payload := [0x61#8] } wired).resp.rdata = 1 ∧
    (performIu { cmd := 0x31000000#32 } wired).resp.status = .badCommand ∧
    (performIu { cmd := 0x42000001#32, wdata := 2 } wired).resp.status = .badCommand ∧
    (performIu { cmd := 0x43000000#32, wdata := 2 } wired).resp.status = .ok := by decide

/-- A feed that waits on port HS falls before a cycle that reads it when the draw says so (R71), and waits when not. -/
theorem test_interleaving :
    let s : State := { wired with xstate := .running, inputs := [.hs { cmd := 0x45000000#32, payload := [0x61#8] }] }
    let read : UnitProgram := .command { cmd := 0x43000000#32, wdata := 9 } fun r => .done (.exit (r.rdata.setWidth 32))
    (execIn { scripted [read] with hostCommands := fun d => if d = 0 then 1 else 0 } 1 s).xstate = .terminated 1 ∧
    (execIn { scripted [read] with hostCommands := fun _ => 0 } 1 s).xstate = .terminated 0 := by decide

/-- The instruction unit sees the occupied slots with the handles' flags (R276); not the capacity of the table (R220), nor what a
handle holds, nor a handle in no slot (R221). -/
theorem test_unit_sees :
    let s : State := { wired with
      fd := [none, some 0, none]
      hp := wired.hp ++ [FreshHandle true true true true true] }
    s.prog.slots = [{ slot := 1, handle := 0, readable := true, writable := false, seekable := false, appendonly := false,
                      interactive := true }] ∧
    (hfeed 0 [0x61#8] { s with fd := s.fd ++ [none, none] }).prog = s.prog := by decide

/-- A cycle that writes two bytes at address 1, reads four at 0 and jumps there: the bytes are 11 EF BE 44 (R32, R62, R63). -/
theorem test_unit_accesses :
    (cycle (scripted [.memWrite 1 .b2 0xBEEF fun _ => .memRead 0 .b4 fun v => .writePc (v.getD 0) (.done .goOn)])
      running).1.pc = 0x44BEEF11 := by decide +kernel

/-- Little-endian access of an unaligned word, and the refusal of one that leaves the image (R62 to R64). -/
theorem test_memory :
    running.mem.read 1 .b2 = some 0x3322 ∧ running.mem.read 1 .b4 = none ∧
    (running.mem.write 2 .b2 0xBBAA).map (fun m => m.bytesFrom 0 4) = some [0x11#8, 0x22#8, 0xAA#8, 0xBB#8] ∧
    running.mem.write 0xFFFFFFFFFFFFFFFF .b1 0 = none := by decide

/-- A reset event destroys the image, the table and the pool (R332). -/
theorem test_reset_event :
    (match step { wired with xstate := .error .illegalInstruction, inputs := [.reset] } with
      | .next t => (t.xstate, t.fd, t.hp.length, t.mem.size)
      | .fault _ => (.running, [], 0, 0)
      | .refused _ => (.running, [], 0, 0)) = (.uninitialized, [], 0, 0) := by decide

/-! ### Witnesses: the hypotheses of each statement are met, at the boundary of each clause -/

theorem witness_DecodeOfEncodeIsTheInstruction : (Instr.rsetU8H 3 0xAA).wellFormed = true := by decide

theorem witness_EncodeOfDecodeIsTheWord : decode { cmd := 0x11400003#32, wdata := 1 } = .ok (.rsetU8H 3 1) := by decide

/-- The last legal and the first illegal value of each range. -/
theorem witness_LegalWordsAreExactlyTheTables :
    LegalWord 0x10 0x31 15 ∧ ¬ LegalWord 0x10 0x31 16 ∧ LegalWord 0x11 0x41 3 ∧ ¬ LegalWord 0x11 0x41 4 ∧
    LegalWord 0x20 16 0 ∧ ¬ LegalWord 0x21 17 0 ∧ LegalWord 0x26 7 0 ∧ ¬ LegalWord 0x26 8 0 ∧ LegalWord 0x41 31 0 ∧
    ¬ LegalWord 0x41 32 0 ∧ LegalWord 0x48 0 0xFFFF ∧ ¬ LegalWord 0x47 0 1 ∧ ¬ LegalWord 0x49 0 0 := by
  simp [LegalWord]

theorem witness_InitPayloadRoundTrip :
    (fullOperands.args.getD []).length < 2 ^ 32 ∧ ∀ arg ∈ fullOperands.args.getD [], arg.length < 2 ^ 32 := by decide

/-- One payload for each of the four grounds. -/
theorem witness_InitPayloadMalformedExactlyWhen :
    initOperands (List.replicate 28 0) = none ∧ initOperands (0x10#8 :: List.replicate 28 0) = none ∧
    initOperands (List.replicate 25 0 ++ [1#8, 0#8, 0#8, 0#8]) = none ∧
    initOperands ([0x08#8] ++ List.replicate 24 0 ++ [1#8, 0#8, 0#8, 0#8] ++ [1#8, 0#8, 0#8, 0#8]) = none := by decide

theorem witness_StepRunsTheDecodedCommand :
    ∃ (s : State) (c : Command) (rest : List HostInput) (i : Instr), s.inputs = .hc c :: rest ∧ decode c = .ok i :=
  ⟨{ State.reset with inputs := [.hc { cmd := 0x25000000#32, wdata := 1 }, .reset] }, _, _, .flagsset 1, rfl, by decide⟩

theorem witness_IllegalWordAnswersBadCommand :
    ∃ (s : State) (c : Command) (rest : List HostInput) (e : Reject), s.inputs = .hc c :: rest ∧ decode c = .error e :=
  ⟨{ State.reset with inputs := [.hc { cmd := 0x49000000#32 }] }, _, _, .unknownOpcode, rfl, by decide⟩

theorem witness_FetchedWordIsServedNext : decodeTableWord 32 0x48000004 = some (.fdclose 4#16) := by decide

/-- Register 3 and register 4 of each of the four commands. -/
theorem witness_HighByteViewsOfFourRegisters :
    (∀ reg : RegIdx, ((0x11410000 : Nat), Instr.rsetI8H reg 7) ∈
      [(0x10400000, .rgetU8H reg), (0x10410000, .rgetI8H reg), (0x11400000, .rsetU8H reg 7), (0x11410000, .rsetI8H reg 7)]) ∧
    (3 : RegIdx).val < 4 ∧ 4 ≤ (4 : RegIdx).val ∧
    decode { cmd := BitVec.ofNat 32 (0x11410000 + (3 : RegIdx).val), wdata := 7 } = .ok (.rsetI8H 3 7) ∧
    decode { cmd := BitVec.ofNat 32 (0x11410000 + (4 : RegIdx).val), wdata := 7 } = .error .highByteRegister ∧
    ∃ (s : State) (rest : List HostInput), s.inputs = .hc { cmd := BitVec.ofNat 32 (0x11410000 + (4 : RegIdx).val), wdata := 7 } :: rest :=
  ⟨by decide, by decide, by decide, by decide, by decide,
    { State.reset with inputs := [.hc { cmd := BitVec.ofNat 32 (0x11410000 + (4 : RegIdx).val), wdata := 7 }] }, _, rfl⟩

/-- The last register of each kind of view. -/
theorem witness_RgetReadsItsView : (15 : RegIdx).val < 16 ∧ (3 : RegIdx).val < 4 := by decide

theorem witness_RsetMergesItsView : (0 : RegIdx).val < 16 ∧ (3 : RegIdx).val < 4 ∧ 0 < 64 ∧ 63 < 64 := by decide

theorem witness_ViewsShareOneStorage :
    ∃ s t u r r' : State, Runs (.rset .u8h 1 0xAA) s t ∧ Runs (.rget .u16 1) t u ∧ Runs (.rget .u16 2) s r ∧
      Runs (.rget .u16 2) t r' :=
  ⟨State.reset, _, _, _, _, rfl, rfl, rfl, rfl⟩

theorem witness_RegisterCommandsRepeat :
    (∃ s t u : State, Runs (.rget .i16 3) s t ∧ Runs (.rget .i16 3) t u) ∧
    (∃ s t u : State, Runs (.rset .i16 3 7) s t ∧ Runs (.rset .i16 3 7) t u) ∧
    ∃ s t u : State, Runs (.rget .i16 3) s t ∧ Runs (.rset .i16 3 t.resp.rdata) t u :=
  ⟨⟨State.reset, _, _, rfl, rfl⟩, ⟨State.reset, _, _, rfl, rfl⟩, State.reset, _, _, rfl, rfl⟩

/-- 4 is the least value refused, 3 the greatest accepted; only `wdata[7:0]` counts. -/
theorem witness_IoplFieldIsReadAndBounded :
    3 < (4#64).toNat % 256 ∧ (3#64).toNat % 256 ≤ 3 ∧ 3 < (0x1FF#64).toNat % 256 ∧ (0x100#64).toNat % 256 ≤ 3 := by decide

theorem witness_ConditionCodesPairAndImply :
    (∃ s b be a ae l le g ge : State, Runs .ccB s b ∧ Runs .ccBE s be ∧ Runs .ccA s a ∧ Runs .ccAE s ae ∧ Runs .ccL s l ∧
      Runs .ccLE s le ∧ Runs .ccG s g ∧ Runs .ccGE s ge ∧ b.resp.rdata = 1 ∧ a.resp.rdata = 0 ∧ l.resp.rdata = 0 ∧
      g.resp.rdata = 1) ∧
    ∀ i ∈ [0, 6, 7, 11], (0x1#64).getLsbD i = (0xF001#64).getLsbD i :=
  ⟨⟨flagged 0x1#64, _, _, _, _, _, _, _, _, rfl, rfl, rfl, rfl, rfl, rfl, rfl, rfl, by decide, by decide, by decide,
    by decide⟩, by decide⟩

theorem witness_FlagAssignmentsAreIndependent :
    (∃ s t a b c d : State, Runs (.fassign .zf 1) s t ∧ Runs (.fget .zf) s a ∧ Runs (.fget .zf) t b ∧ Runs .ioplget s c ∧
      Runs .ioplget t d) ∧
    (∃ s t a b c d : State, Runs (.fassign .of 1) s t ∧ Runs (.fget .nt) s a ∧ Runs (.fget .nt) t b ∧ Runs .ioplget s c ∧
      Runs .ioplget t d) ∧
    ∃ s t a b d : State, (3#64).toNat % 256 ≤ 3 ∧ Runs (.ioplassign 3#64) s t ∧ Runs (.fget .nt) s a ∧
      Runs (.fget .nt) t b ∧ Runs .ioplget t d :=
  ⟨⟨State.reset, _, _, _, _, _, rfl, rfl, rfl, rfl, rfl⟩, ⟨State.reset, _, _, _, _, _, rfl, rfl, rfl, rfl, rfl⟩,
    State.reset, _, _, _, _, by decide, rfl, rfl, rfl, rfl⟩

/-- A table as large as it may be, an image that fills `max_memory`, a stack region that fills the image. -/
theorem witness_InitLoadsTheImage :
    ∃ (env : Env) (bytes : List Byte) (ops : InitOperands) (r : LoadResult) (mm ss mf : Word) (s : State),
      initOperands bytes = some ops ∧ s.xstate = .uninitialized ∧ s.initFailed = false ∧
      mm = ops.maxMemory.getD env.maxMemory ∧ ss = ops.stackSize.getD env.stackSize ∧
      mf = ops.maxFiles.getD env.maxFiles ∧ mf.toNat ≤ 65536 ∧
      env.load { exe := ops.exe, maxMemory := mm, stackSize := ss, maxFiles := mf, args := ops.args.getD env.args } =
        some r ∧ r.image.length ≤ mm.toNat ∧ ss.toNat ≤ r.image.length :=
  ⟨{ scripted [] with stackSize := 4, maxFiles := 65536 }, good,
    { maxMemory := none, stackSize := none, maxFiles := none, args := none, exe := [0xDE#8, 0xAD#8] },
    { regs := Vector.replicate 16 0, flags := 0, pc := 0x100, image := [0x11#8, 0x22#8, 0x33#8, 0x44#8] }, 4, 4, 65536,
    State.reset, by decide, by decide, by decide, by decide, by decide, by decide, by decide, by decide, by decide, by decide⟩

/-- `max_files` one too large; a loader that answers `Err`; an image one byte too large; one a byte short of the stack. -/
theorem witness_InitFailureLatches :
    (∃ (env : Env) (bytes : List Byte) (ops : InitOperands) (s : State), initOperands bytes = some ops ∧
      s.xstate = .uninitialized ∧ s.initFailed = false ∧ 65536 < (ops.maxFiles.getD env.maxFiles).toNat) ∧
    (∃ (env : Env) (bytes : List Byte) (ops : InitOperands) (s : State), initOperands bytes = some ops ∧
      s.xstate = .uninitialized ∧ s.initFailed = false ∧
      env.load { exe := ops.exe, maxMemory := ops.maxMemory.getD env.maxMemory,
                 stackSize := ops.stackSize.getD env.stackSize, maxFiles := ops.maxFiles.getD env.maxFiles,
                 args := ops.args.getD env.args } = none) ∧
    ∀ mm ss : Word, (mm = 3 ∧ ss = 0) ∨ (mm = 8 ∧ ss = 5) →
      ∃ (env : Env) (bytes : List Byte) (ops : InitOperands) (s : State) (r : LoadResult), initOperands bytes = some ops ∧
        s.xstate = .uninitialized ∧ s.initFailed = false ∧
        env.load { exe := ops.exe, maxMemory := ops.maxMemory.getD env.maxMemory,
                   stackSize := ops.stackSize.getD env.stackSize, maxFiles := ops.maxFiles.getD env.maxFiles,
                   args := ops.args.getD env.args } = some r ∧
        ((ops.maxMemory.getD env.maxMemory).toNat < r.image.length ∨
         r.image.length < (ops.stackSize.getD env.stackSize).toNat) := by
  refine ⟨⟨{ scripted [] with maxFiles := 65537 }, good,
      { maxMemory := none, stackSize := none, maxFiles := none, args := none, exe := [0xDE#8, 0xAD#8] }, State.reset,
      by decide, by decide, by decide, by decide⟩,
    ⟨scripted [], List.replicate 29 0, { maxMemory := none, stackSize := none, maxFiles := none, args := none, exe := [] },
      State.reset, by decide, by decide, by decide, by decide⟩, ?_⟩
  rintro mm ss (⟨rfl, rfl⟩ | ⟨rfl, rfl⟩)
  · exact ⟨{ scripted [] with maxMemory := 3, stackSize := 0 }, good,
      { maxMemory := none, stackSize := none, maxFiles := none, args := none, exe := [0xDE#8, 0xAD#8] }, State.reset, _,
      by decide, by decide, by decide, rfl, by decide⟩
  · exact ⟨{ scripted [] with maxMemory := 8, stackSize := 5 }, good,
      { maxMemory := none, stackSize := none, maxFiles := none, args := none, exe := [0xDE#8, 0xAD#8] }, State.reset, _,
      by decide, by decide, by decide, rfl, by decide⟩

/-- Each of the four grounds. -/
theorem witness_InitOnlyFromFreshReset :
    initOperands good ≠ none ∧ running.xstate ≠ .uninitialized ∧
    { running with xstate := .terminated 0 }.xstate ≠ .uninitialized ∧
    { running with xstate := .error .illegalInstruction }.xstate ≠ .uninitialized ∧
    { State.reset with initFailed := true }.initFailed = true := by decide

/-- The states of a run of the given script, cycle by cycle. -/
def states (script : List CycleOutcome) : Nat → State
  | 0 => running
  | n + 1 => (cycle (scripted (script.map .done)) (states script n)).1

/-- One cycle that goes on, then each kind of outcome, and a spent budget. -/
theorem witness_ExecFollowsTheOutcomes :
    State.reset.xstate ≠ .running ∧ (states [] 0).xstate = .running ∧ (1#64).toNat = 1 ∧ 1 < (2#64).toNat ∧
    (∀ i < 1, cycle (scripted ([.goOn, .forfeit].map .done)) (states [.goOn, .forfeit] i) =
      (states [.goOn, .forfeit] (i + 1), .goOn)) ∧
    (cycle (scripted ([.goOn, .forfeit].map .done)) (states [.goOn, .forfeit] 1)).2 = .forfeit ∧
    (∀ i < 1, cycle (scripted ([.goOn, .exit 7].map .done)) (states [.goOn, .exit 7] i) =
      (states [.goOn, .exit 7] (i + 1), .goOn)) ∧
    (cycle (scripted ([.goOn, .exit 7].map .done)) (states [.goOn, .exit 7] 1)).2 = .exit 7 ∧
    (∀ i < 1, cycle (scripted ([.goOn, .fault .arithmeticFault].map .done)) (states [.goOn, .fault .arithmeticFault] i) =
      (states [.goOn, .fault .arithmeticFault] (i + 1), .goOn)) ∧
    (cycle (scripted ([.goOn, .fault .arithmeticFault].map .done)) (states [.goOn, .fault .arithmeticFault] 1)).2 =
      .fault .arithmeticFault := by decide +kernel

theorem witness_ConsumedCyclesAreAccounted : running.xstate = .running := by decide

theorem witness_ExecSplits :
    running.xstate = .running ∧ (1#64).toNat + (2#64).toNat < 2 ^ 64 ∧
    (execIn (scripted [.done .goOn, .done .goOn, .done (.exit 3)]) 1#64 running).resp.rtag = 1 := by decide +kernel

theorem witness_FaultKindsAreTheNonzeroCodes : (1#8) ≠ 0 ∧ (255#8) ≠ 0 := by decide

theorem witness_FaultIsCaptured :
    ∃ (env : Env) (b : Word) (s u : State) (k : FaultKind), s.xstate = .running ∧ 0 < b.toNat ∧
      cycle env s = (u, .fault k) :=
  ⟨scripted [.done (.fault .illegalInstruction)], 1, running, { running with draws := 2 }, .illegalInstruction,
    by decide, by decide, by decide +kernel⟩

/-- A step over each kind of input. -/
theorem witness_ExecutionStateTransitions :
    (∃ s t, s.inputs = [] ∧ step s = .next t) ∧ (∃ s t, s.inputs = [.reset] ∧ step s = .next t) ∧
    (∃ s t, s.inputs = [.hc { cmd := 0x30000000#32, payload := good }] ∧ s.xstate = .uninitialized ∧
      s.initFailed = false ∧ step s = .next t) ∧
    ∃ s t, s.inputs = [.hc { cmd := 0x31000000#32, wdata := 1 }] ∧ s.xstate = .running ∧ step s = .next t :=
  ⟨⟨State.reset, _, rfl, rfl⟩, ⟨{ State.reset with inputs := [.reset] }, _, rfl, rfl⟩,
    ⟨{ State.reset with inputs := [.hc { cmd := 0x30000000#32, payload := good }] }, _, rfl, rfl, rfl, rfl⟩,
    ⟨{ running with inputs := [.hc { cmd := 0x31000000#32, wdata := 1 }] }, _, rfl, rfl, rfl⟩⟩

theorem witness_TerminalStatesAreSticky :
    (∃ s t, NoReset s ∧ (∃ rc, s.xstate = .terminated rc) ∧ After 1 s t) ∧
    ∃ s t, NoReset s ∧ (∃ k, s.xstate = .error k) ∧ After 2 s t :=
  ⟨⟨{ running with xstate := .terminated 7, inputs := [.hc { cmd := 0x31000000#32, wdata := 1 }] }, _,
      by unfold NoReset; decide, ⟨7, rfl⟩, _, rfl, rfl⟩,
    { running with xstate := .error .illegalInstruction }, _, by unfold NoReset; decide, ⟨.illegalInstruction, rfl⟩, _, rfl, _,
    rfl, rfl⟩

/-- The second state has another capacity, another execution state, bytes in the buffer, and a handle in no slot. -/
theorem witness_CycleKeepsTheEngineState :
    (∃ s t, cycle (scripted []) s = (t, .goOn)) ∧
    (∃ v : SlotView, v ∈ wired.prog.slots ∧ v.interactive = true) ∧
    ∃ s s' : State, s.regs = s'.regs ∧ s.flags = s'.flags ∧ s.pc = s'.pc ∧ s.mem = s'.mem ∧ SlotsWithin s s' ∧
      SlotsWithin s' s ∧ s.fdCap ≠ s'.fdCap ∧ s.hp ≠ s'.hp ∧ s.xstate ≠ s'.xstate := by
  let hd := FreshHandle true false false false true
  refine ⟨⟨running, { running with draws := 2 }, by decide +kernel⟩, ⟨_, List.mem_cons_self .., rfl⟩,
    { State.reset with fd := [some 0], hp := [hd] },
    { State.reset with fd := [some 0, none], hp := [{ hd with buf := [1#8] }, hd], xstate := .running },
    rfl, rfl, rfl, rfl, ?_, ?_, by decide, by decide, by decide⟩
  · intro slot h x h1 h2
    match slot, h1 with
    | 0, h1 => cases h1; cases h2; exact ⟨_, rfl, rfl, rfl, rfl, rfl, rfl, rfl⟩
  · intro slot h x h1 h2
    match slot, h1 with
    | 0, h1 => cases h1; cases h2; exact ⟨_, rfl, rfl, rfl, rfl, rfl, rfl, rfl⟩
    | 1, h1 => cases h1

/-- An image that fills `max_memory`. -/
theorem witness_CycleKeepsTheImageInBounds :
    running.mem.wf = true ∧ running.mem.size = running.maxMemory.toNat ∧
    cycle (scripted []) running = ({ running with draws := 2 }, .goOn) := by decide +kernel

/-- One byte too far, and the last address of all. -/
theorem witness_FailedAccessForcesTheFault :
    running.mem.size < (1#64).toNat + accessBytes .b4 ∧
    running.mem.size < (0xFFFFFFFFFFFFFFFF#64).toNat + accessBytes .b1 := by decide

/-- The last place a word of two bytes fits. -/
theorem witness_MemoryWriteThenRead :
    running.mem.wf = true ∧ (2#64).toNat + accessBytes .b2 ≤ running.mem.size ∧
    ¬ (3#64).toNat + accessBytes .b2 ≤ running.mem.size := by decide

theorem witness_InstructionUnitPortRights :
    Instr.hostOnly (.hdump 0) = true ∧ Instr.hostOnly (.fread 0 1) = false ∧
    decode { cmd := 0x43000000#32 } = .ok (.fread 0 0) ∧ decode { cmd := 0x43010000#32 } = .error .selectorNotZero ∧
    running.mem.wf = true ∧ running.mem.size + [1#8].length ≤ { running with maxMemory := 5 }.maxMemory.toNat ∧
    { running with maxMemory := 5 }.maxMemory.toNat < running.mem.size + [1#8, 2#8].length := by
  decide

theorem witness_HandleSidePortRights :
    (∃ (s t : State) (c : Command) (rest : List HostInput) (h : BitVec 16) (b : List Byte), s.inputs = .hs c :: rest ∧
      decode c = .ok (.hfeed h b) ∧ Instr.handleSide (.hfeed h b) = true ∧
      exec (.hfeed h b) { s with inputs := rest } = .next t) ∧
    (∃ (s t : State) (c : Command) (rest : List HostInput) (h : BitVec 16), s.inputs = .hs c :: rest ∧
      decode c = .ok (.hdump h) ∧ Instr.handleSide (.hdump h) = true ∧
      exec (.hdump h) { s with inputs := rest } = .next t) ∧
    (∃ (s : State) (c : Command) (rest : List HostInput), s.inputs = .hs c :: rest ∧ decode c = .ok .stateget ∧
      Instr.handleSide .stateget = false) ∧
    ∃ (s : State) (c : Command) (rest : List HostInput), s.inputs = .hs c :: rest ∧ decode c = .error .selectorNotZero :=
  ⟨⟨{ wired with inputs := [.hs { cmd := 0x45000000#32, payload := [1#8] }] }, _, _, _, 0, [1#8], rfl, by decide, rfl, rfl⟩,
    ⟨{ wired with inputs := [.hs { cmd := 0x46000000#32 }] }, _, _, _, 0, rfl, by decide, rfl, rfl⟩,
    ⟨{ wired with inputs := [.hs { cmd := 0x32000000#32 }] }, _, _, rfl, by decide, rfl⟩,
    { wired with inputs := [.hs { cmd := 0x45010000#32 }] }, _, _, rfl, by decide⟩

theorem witness_HostReachesOnlyHandlesDuringExec :
    (∃ (s t : State) (hd : Handle), t = hostPoint { scripted [] with hostCommands := fun _ => 1 } s ∧ s.hp[0]? = some hd ∧
      s.inputs ≠ []) ∧
    (∃ (s t : State) (c : Command) (before after : List HostInput), OnlyHc before ∧ before ≠ [] ∧ after ≠ [] ∧
      s.inputs = before ++ .hs c :: after ∧ t = performHs c { s with inputs := before ++ after }) ∧
    (∃ s : State, NoHsWaits s.inputs ∧ .hs { cmd := 0x46000000#32 } ∈ s.inputs) ∧
    (decode { cmd := 0x46000000#32 } = .ok (.hdump 0) ∧ Instr.handleSide (.hdump 0) = true) ∧
    (decode { cmd := 0x32000000#32 } = .ok .stateget ∧ Instr.handleSide .stateget = false) ∧
    decode { cmd := 0#32 } = .error .unknownOpcode := by
  refine ⟨⟨{ wired with inputs := [.hs { cmd := 0x45000000#32, payload := [1#8] }] }, _, _, rfl, rfl, by decide⟩,
    ⟨{ wired with inputs := [.hc { cmd := 0x32000000#32 }, .hs { cmd := 0x46000000#32 }, .reset] }, _,
      { cmd := 0x46000000#32 }, [.hc { cmd := 0x32000000#32 }], [.reset], ?_, by decide, by decide, rfl, rfl⟩,
    ⟨{ wired with inputs := [.reset, .hs { cmd := 0x46000000#32 }] }, ?_, by decide⟩, by decide, by decide, by decide⟩
  · intro x hx
    exact ⟨_, List.mem_singleton.mp hx⟩
  · intro before c after h
    cases before with
    | nil => cases h
    | cons x xs => rw [(List.cons.inj h).1]; exact List.mem_cons_self ..

/-- Two slots; three slots and a pool that lacks one entry; three slots and a pool that just suffices. -/
theorem witness_StdioWiresThreeHandles :
    (∃ s : State, s.fd.length = 2) ∧
    (∃ s : State, s.fd.length = 3 ∧ s.hp.length + 2 = Config.nHandles ∧ Config.nHandles < s.hp.length + 3) ∧
    ∃ s : State, s.fd.length = 3 ∧ s.hp.length + 3 = Config.nHandles := by
  have hn : 3 ≤ Config.nHandles := by unfold Config.nHandles; omega
  refine ⟨⟨{ State.reset with fd := [none, none] }, rfl⟩,
    ⟨{ State.reset with fd := [none, none, none], hp := List.replicate (Config.nHandles - 2) (newHandle 0) }, rfl, ?_, ?_⟩,
    { State.reset with fd := [none, none, none], hp := List.replicate (Config.nHandles - 3) (newHandle 0) }, rfl, ?_⟩
  all_goals (simp only [List.length_replicate]; omega)

/-- A full pool, and one with a single `Free` entry. -/
theorem witness_HnewCreatesAHandle :
    (∃ s : State, Config.nHandles ≤ s.hp.length) ∧ ∃ s : State, s.hp.length + 1 = Config.nHandles := by
  have hn : 3 ≤ Config.nHandles := by unfold Config.nHandles; omega
  refine ⟨⟨{ State.reset with hp := List.replicate Config.nHandles (newHandle 0) }, ?_⟩,
    { State.reset with hp := List.replicate (Config.nHandles - 1) (newHandle 0) }, ?_⟩
  all_goals (simp only [List.length_replicate]; omega)

/-- The first slot past the table, the first id past the pool, the last slot with the last id. -/
theorem witness_InstallReplacesASlot :
    wired.fd.length ≤ (8#16).toNat ∧ (7#16).toNat < wired.fd.length ∧ wired.hp.length ≤ (3#64).toNat % 2 ^ 16 ∧
    (0x10002#64).toNat % 2 ^ 16 < wired.hp.length := by decide

/-- A slot past the table, an empty one, one that is not readable, a whole read, a short one and one at the end. -/
theorem witness_FreadTakesFromTheCursor :
    (∃ (s : State) (slot : BitVec 16), s.fd.length ≤ slot.toNat ∧ NoFile s slot) ∧
    (∃ (s : State) (slot : BitVec 16), s.fd[slot.toNat]? = some none ∧ NoFile s slot) ∧
    (∃ (s : State) (hd : Handle), Holds s 1 1 hd ∧ hd.readable = false) ∧
    ∃ (s : State) (hd : Handle) (past data left : List Byte), Holds s 3 3 hd ∧ hd.readable = true ∧
      hd.buf = past ++ data ++ left ∧ hd.pos.toNat = past.length ∧
      data.length = min (2#64).toNat (data.length + left.length) ∧ data.length = 2 ∧ left.length = 1 :=
  ⟨⟨wired, 8, by decide, .inl (by decide)⟩, ⟨wired, 7, by decide, .inr (by decide)⟩,
    ⟨wired, _, ⟨rfl, rfl⟩, rfl⟩,
    ordinary [1#8, 2#8, 3#8, 4#8] 1, _, [1#8], [2#8, 3#8], [4#8], ⟨rfl, rfl⟩, rfl, rfl, rfl, rfl, rfl, rfl⟩

theorem witness_FreadTakesFromTheCursor_short :
    ∃ (s : State) (hd : Handle) (past data : List Byte), Holds s 3 3 hd ∧ hd.readable = true ∧ hd.buf = past ++ data ++ [] ∧
      hd.pos.toNat = past.length ∧ data.length = min (16#64).toNat (data.length + 0) ∧ data.length = 1 :=
  ⟨ordinary [1#8, 2#8, 3#8] 2, _, [1#8, 2#8], [3#8], ⟨rfl, rfl⟩, rfl, rfl, rfl, rfl, rfl⟩

/-- A handle that is not writable, an append-only one, an overwrite in the middle and one that runs past the end. -/
theorem witness_FwriteStoresThroughTheCursor :
    (∃ (s : State) (slot : BitVec 16), NoFile s slot) ∧
    (∃ (s : State) (hd : Handle), Holds s 0 0 hd ∧ hd.writable = false) ∧
    (∃ (s : State) (hd : Handle), Holds s 1 1 hd ∧ hd.writable = true ∧ hd.appendonly = true) ∧
    (∃ (s : State) (hd : Handle) (past hit left : List Byte), Holds s 3 3 hd ∧ hd.writable = true ∧
      hd.appendonly = false ∧ hd.buf = past ++ hit ++ left ∧ hd.pos.toNat = past.length ∧
      hit.length = min [9#8].length (hit.length + left.length) ∧ left.length = 1) ∧
    ∃ (s : State) (hd : Handle) (past hit : List Byte), Holds s 3 3 hd ∧ hd.writable = true ∧
      hd.appendonly = false ∧ hd.buf = past ++ hit ++ [] ∧ hd.pos.toNat = past.length ∧
      hit.length = min [9#8, 9#8].length (hit.length + 0) ∧ hit.length = 1 :=
  ⟨⟨wired, 8, .inl (by decide)⟩, ⟨wired, _, ⟨rfl, rfl⟩, rfl⟩, ⟨wired, _, ⟨rfl, rfl⟩, rfl, rfl⟩,
    ⟨ordinary [1#8, 2#8, 3#8] 1, _, [1#8], [2#8], [3#8], ⟨rfl, rfl⟩, rfl, rfl, rfl, rfl, rfl, rfl⟩,
    ordinary [1#8, 2#8] 1, _, [1#8], [2#8], ⟨rfl, rfl⟩, rfl, rfl, rfl, rfl, rfl, rfl⟩

theorem witness_HfeedAndHdumpByHandleId :
    wired.hp.length ≤ (3#16).toNat ∧ wired.hp[(2#16).toNat]? = some (FreshHandle false true false true false) := by decide

/-- An id past the pool; a full table; the least empty slot; a slot to close and one that is empty. -/
theorem witness_FdopenTakesTheLeastEmptySlot :
    wired.hp.length ≤ (3#64).toNat % 2 ^ 16 ∧ (2#64).toNat % 2 ^ 16 < wired.hp.length ∧
    none ∉ { wired with fd := [some 0] }.fd ∧ none ∉ { wired with fd := [] }.fd ∧ wired.fd[3]? = some none ∧
    (∀ k < 3, wired.fd[k]? ≠ some none) ∧ NoFile wired 3 ∧ NoFile wired 8 ∧ wired.fd[(2#16).toNat]? = some (some 2) :=
  ⟨by decide, by decide, by decide, by decide, by decide, by decide, .inr (by decide), .inl (by decide), by decide⟩

/-- Standard input holds three bytes, one already read; two reads, one write. -/
theorem witness_EchoCopiesTheUnreadBytes :
    ∃ (s t : State) (i o : Handle), Echo s t ∧ 0 ≠ 1 ∧ Holds s 0 0 i ∧ Holds s 1 1 o ∧ i.readable = true ∧
      o.writable = true ∧ o.appendonly = true ∧ i.pos.toNat ≤ i.buf.length ∧ i.buf.length < 2 ^ 64 ∧
      i.buf.drop i.pos.toNat ≠ [] :=
  ⟨{ wired with hp := [{ FreshHandle true false false false true with buf := [1#8, 2#8, 3#8], pos := 1 },
        FreshHandle false true false true false] }, _, _, _,
    .chunk (n := 16) rfl rfl (by decide) rfl (.stop (n := 16) (by decide) rfl rfl rfl),
    by decide, ⟨rfl, rfl⟩, ⟨rfl, rfl⟩, rfl, rfl, rfl, by decide, by decide, by decide⟩

theorem witness_SlotReuseNeedsAnEmptySlot :
    (∃ (s t : State), exec (.install 1 2) s = .next t ∧ s.fd[1]? = some (some 1) ∧ t.fd[1]? = some (some 2) ∧ 2 ≠ 1) ∧
    ∃ s : State, s.fd[1]? = some (some 1) ∧ (unitCommand (.fdopen 2) s).fd[1]? = some (some 1) :=
  ⟨⟨wired, _, rfl, rfl, rfl, by decide⟩, wired, rfl, rfl⟩

/-- A command refused with an error status, an `INIT` that fails, and an `EXEC`. -/
theorem witness_ErrorStatusChangesNothing :
    (∃ s t : State, exec (.ioplassign 4) s = .next t ∧ t.resp.status ≠ .ok ∧ t.resp.status ≠ .initError) ∧
    (∃ s t : State, exec (.init ([0x04#8] ++ List.replicate 16 0 ++ [1#8, 0#8, 1#8] ++ List.replicate 9 0)) s = .next t ∧
      t.resp.status = .initError) ∧
    ∃ s t : State, exec (.exec 1) s = .next t :=
  ⟨⟨State.reset, _, rfl, by decide, by decide⟩, ⟨State.reset, _, rfl, by decide⟩, State.reset, _, rfl⟩

theorem witness_CommandsIgnoreTheExecutionState :
    ∃ s t : State, Instr.concernsEngine (.fwrite 1 [1#8]) = false ∧ exec (.fwrite 1 [1#8]) s = .next t :=
  ⟨wired, _, rfl, rfl⟩

theorem witness_FlagsAreInert :
    ∃ s t : State, Instr.concernsFlags (.rsetI8H 3 1) = false ∧ exec (.rsetI8H 3 1) s = .next t :=
  ⟨State.reset, _, rfl, rfl⟩

theorem witness_HostReachesPcAndMemoryOnlyThroughInitAndExec :
    ∃ s t : State, (∀ bytes, Instr.stdio ≠ .init bytes) ∧ (∀ b, Instr.stdio ≠ .exec b) ∧ exec .stdio s = .next t :=
  ⟨running, _, nofun, nofun, rfl⟩

/-- An append-only handle that holds a byte, and a command on port HS. -/
theorem witness_HandlesStayLiveWithTheirFlags :
    ∃ (s t : State) (hd : Handle), step s = .next t ∧ (∀ rest, s.inputs ≠ .reset :: rest) ∧ s.hp[1]? = some hd ∧
      hd.appendonly = true :=
  ⟨{ wired with inputs := [.hs { cmd := 0x45000001#32, payload := [1#8] }] }, _, _, rfl, nofun, rfl, rfl⟩

/-- A running engine with an image that fills `max_memory`, a table, handles, and a command that waits. -/
theorem witness_StepKeepsTheInvariant : ∃ s t : State, s.Inv ∧ s.xstate = .running ∧ step s = .next t := by
  refine ⟨{ running with fd := wired.fd, hp := wired.hp, inputs := [.hc { cmd := 0x44000001#32, payload := [1#8] }] }, _,
    ⟨by decide, by decide, by decide, ?_, ?_, ?_, by decide, by decide⟩, rfl, rfl⟩
  · show 3 ≤ Config.nHandles
    unfold Config.nHandles; omega
  · intro h hd hh
    have : hd ∈ wired.hp := List.mem_of_getElem? hh
    simp only [wired, List.mem_cons, List.not_mem_nil, or_false] at this
    rcases this with rfl | rfl | rfl <;> exact Nat.le_refl 0
  · intro slot h hh
    have : some h ∈ wired.fd := List.mem_of_getElem? hh
    simp only [wired, List.mem_cons, Option.some.injEq, reduceCtorEq, List.not_mem_nil, or_false] at this
    show h < 3
    omega

theorem witness_ResetEventClearsTheBlock :
    ∃ (s t : State) (rest : List HostInput), s.inputs = .reset :: rest ∧ step s = .next t ∧ s.xstate = .running :=
  ⟨{ running with inputs := [.reset, .hc { cmd := 0x32000000#32 }] }, _, _, rfl, rfl, rfl⟩

end Sys2Proof.Tests
end

section
/-! SUPPORT. What every act of the block but a reset keeps of the handles and the table: one relation between the states
before and after, closed under every command, every access of the instruction unit and every command of port HS. -/

namespace Sys2Proof.Machine

open Sys2Proof.Claims

/-! ### One handle -/

/-- What no command takes from a `Live` handle (R38, R39, R268): its flags and its bytes; and a cursor that lies in the
buffer keeps doing so. -/
structure Handle.Kept (a b : Handle) : Prop where
  flags : SameFlags a b
  length : a.buf.length ≤ b.buf.length
  extended : a.appendonly = true → ∃ more, b.buf = a.buf ++ more
  cursor : a.Inv → b.Inv

theorem Handle.Kept.refl (a : Handle) : a.Kept a :=
  ⟨⟨rfl, rfl, rfl, rfl, rfl⟩, Nat.le_refl _, fun _ => ⟨[], (List.append_nil _).symm⟩, id⟩

theorem Handle.Kept.trans {a b c : Handle} (hab : a.Kept b) (hbc : b.Kept c) : a.Kept c := by
  obtain ⟨hr, hw, hk, ha, hi⟩ := hab.flags
  obtain ⟨hr', hw', hk', ha', hi'⟩ := hbc.flags
  refine ⟨⟨hr.trans hr', hw.trans hw', hk.trans hk', ha.trans ha', hi.trans hi'⟩, hab.length.trans hbc.length,
    fun happ => ?_, hbc.cursor ∘ hab.cursor⟩
  obtain ⟨more, hmore⟩ := hab.extended happ
  obtain ⟨more', hmore'⟩ := hbc.extended (ha ▸ happ)
  exact ⟨more ++ more', by rw [hmore', hmore, List.append_assoc]⟩

theorem readAdvance_kept (n : Word) (hd : Handle) : hd.Kept (readAdvance n hd) :=
  ⟨⟨rfl, rfl, rfl, rfl, rfl⟩, Nat.le_refl _, fun _ => ⟨[], (List.append_nil _).symm⟩, readAdvance_inv⟩

theorem feed_kept (bytes : List Byte) (hd : Handle) : hd.Kept (feed bytes hd) :=
  ⟨⟨rfl, rfl, rfl, rfl, rfl⟩, by simp [feed], fun _ => ⟨bytes, rfl⟩, feed_inv⟩

/-- Overwriting never shortens a buffer, wherever the cursor stands. -/
theorem writeThrough_length_le (bytes : List Byte) (hd : Handle) :
    hd.buf.length ≤ (writeThrough bytes hd).buf.length := by
  cases ha : hd.appendonly with
  | true => simp [writeThrough_append ha]
  | false =>
    rw [writeThrough_overwrite ha]
    simp only [List.length_append, List.length_take, List.length_drop]
    omega

theorem writeThrough_kept (bytes : List Byte) (hd : Handle) : hd.Kept (writeThrough bytes hd) := by
  refine ⟨?_, writeThrough_length_le bytes hd, fun ha => ?_, writeThrough_inv⟩
  · cases ha : hd.appendonly with
    | true => rw [writeThrough_append ha]; exact ⟨rfl, rfl, rfl, rfl, rfl⟩
    | false => rw [writeThrough_overwrite ha]; exact ⟨rfl, rfl, rfl, rfl, rfl⟩
  · exact ⟨bytes, by rw [writeThrough_append ha]⟩

/-! ### The pool and the table -/

/-- What every act of the block but a reset keeps of the pool and the table (R37, R38): `Live` handles stay, new ones have
their cursor in the buffer, the pool stays within `N_HANDLES`, and an id that comes into a slot is `Live`. -/
structure TableKept (s t : State) : Prop where
  kept : ∀ (h : Nat) (hd : Handle), s.hp[h]? = some hd → ∃ hd', t.hp[h]? = some hd' ∧ hd.Kept hd'
  fresh : ∀ (h : Nat) (hd' : Handle), s.hp.length ≤ h → t.hp[h]? = some hd' → hd'.Inv
  room : s.hp.length ≤ Config.nHandles → t.hp.length ≤ Config.nHandles
  slots : ∀ slot h : Nat, t.fd[slot]? = some (some h) → s.fd[slot]? = some (some h) ∨ h < t.hp.length

/-- The pool never shrinks. -/
theorem TableKept.length_le {s t : State} (h : TableKept s t) : s.hp.length ≤ t.hp.length := by
  by_contra hlt
  have hin : t.hp.length < s.hp.length := by omega
  obtain ⟨hd', hsome, -⟩ := h.kept _ _ (List.getElem?_eq_getElem hin)
  exact absurd (List.getElem?_eq_some_iff.mp hsome).1 (Nat.lt_irrefl _)

/-- An act that leaves the pool as it is and brings no id into a slot. -/
theorem TableKept.of_same_pool {s t : State} (hhp : t.hp = s.hp)
    (hfd : ∀ slot h : Nat, t.fd[slot]? = some (some h) → s.fd[slot]? = some (some h) ∨ h < s.hp.length) :
    TableKept s t where
  kept h hd hs := ⟨hd, by rw [hhp]; exact hs, .refl hd⟩
  fresh h hd' hle ht := by
    rw [hhp, List.getElem?_eq_none hle] at ht
    cases ht
  room hr := by rw [hhp]; exact hr
  slots slot h ht := by rw [hhp]; exact hfd slot h ht

/-- An act that touches neither the pool nor the table. -/
theorem TableKept.of_same {s t : State} (hhp : t.hp = s.hp) (hfd : t.fd = s.fd) : TableKept s t :=
  .of_same_pool hhp fun _ _ ht => .inl (hfd ▸ ht)

theorem TableKept.refl (s : State) : TableKept s s := .of_same rfl rfl

theorem TableKept.trans {s t u : State} (hst : TableKept s t) (htu : TableKept t u) : TableKept s u where
  kept h hd hs := by
    obtain ⟨hd', ht, hk⟩ := hst.kept h hd hs
    obtain ⟨hd'', hu, hk'⟩ := htu.kept h hd' ht
    exact ⟨hd'', hu, hk.trans hk'⟩
  fresh h hd'' hle hu := by
    by_cases hlt : h < t.hp.length
    · have ht := List.getElem?_eq_getElem hlt
      obtain ⟨x, hx, hk⟩ := htu.kept h _ ht
      rw [hu] at hx
      cases hx
      exact hk.cursor (hst.fresh h _ hle ht)
    · exact htu.fresh h hd'' (by omega) hu
  room hr := htu.room (hst.room hr)
  slots slot h hu := by
    rcases htu.slots slot h hu with ht | hlt
    · rcases hst.slots slot h ht with hs | hlt
      · exact .inl hs
      · exact .inr (Nat.lt_of_lt_of_le hlt htu.length_le)
    · exact .inr hlt

theorem answer_tableKept (s : State) (r : Response) : TableKept s (s.answer r) := .of_same rfl rfl

/-- One handle replaced by one that keeps what it held. -/
theorem TableKept.setHandle {s : State} {h : Nat} {hd hd' : Handle} (hlive : s.hp[h]? = some hd) (hk : hd.Kept hd') :
    TableKept s (s.setHandle h hd') where
  kept g gd hg := by
    have hlt := (List.getElem?_eq_some_iff.mp hlive).1
    by_cases hgh : h = g
    · subst hgh
      rw [hlive] at hg
      cases hg
      exact ⟨hd', by simp [List.getElem?_set_self hlt], hk⟩
    · exact ⟨gd, by simp [List.getElem?_set_ne hgh, hg], .refl gd⟩
  fresh g gd hle ht := by
    rw [State.setHandle_hp, List.getElem?_eq_none (by rw [List.length_set]; exact hle)] at ht
    cases ht
  room hr := by rw [State.setHandle_hp, List.length_set]; exact hr
  slots slot g ht := .inl ht

/-- A slot emptied, or given the id of a `Live` handle. -/
theorem TableKept.setSlot {s : State} (slot : Nat) {entry : Option Nat} (hlive : ∀ h, entry = some h → h < s.hp.length) :
    TableKept s (s.setSlot slot entry) :=
  .of_same_pool rfl fun k h hk => by
    rw [State.setSlot_fd, List.getElem?_set] at hk
    split at hk
    · split at hk
      · exact .inr (hlive h (Option.some.inj hk))
      · cases hk
    · exact .inl hk

/-- A handle created at the lowest `Free` id. -/
theorem TableKept.create {s : State} {h : Nat} {hd : Handle} {hp' : List Handle} (hinv : hd.Inv)
    (hnew : newEntry Config.nHandles hd s.hp = some (h, hp')) : TableKept s { s with hp := hp' } := by
  obtain ⟨hroom, rfl, rfl⟩ := newEntry_eq_some.mp hnew
  refine ⟨fun g gd hg => ?_, fun g gd hle hg => ?_, fun _ => ?_, fun _ _ hk => .inl hk⟩
  · exact ⟨gd, (List.getElem?_append_left (List.getElem?_eq_some_iff.mp hg).1).trans hg, .refl gd⟩
  · have hmem := List.mem_of_getElem? (List.getElem?_append_right (l₂ := [hd]) hle ▸ hg)
    rw [List.mem_singleton.mp hmem]
    exact hinv
  · simpa using hroom

/-! ### The commands -/

theorem stdio_tableKept (s : State) : TableKept s (stdio s) := by
  unfold stdio stdioIn
  split
  · exact answer_tableKept s _
  · split
    · exact answer_tableKept s _
    · rename_i a hp1 ha
      split
      · exact answer_tableKept s _
      · rename_i b hp2 hb
        split
        · exact answer_tableKept s _
        · rename_i c hp3 hc
          have hpool : TableKept s { s with hp := hp3 } :=
            ((TableKept.create (newHandle_inv _) ha).trans
              (.create (s := { s with hp := hp1 }) (newHandle_inv _) hb)).trans
              (.create (s := { s with hp := hp2 }) (newHandle_inv _) hc)
          obtain ⟨-, rfl, rfl⟩ := newEntry_eq_some.mp ha
          obtain ⟨-, rfl, rfl⟩ := newEntry_eq_some.mp hb
          obtain ⟨-, rfl, rfl⟩ := newEntry_eq_some.mp hc
          refine hpool.trans (((TableKept.setSlot 0 ?_).trans (.setSlot 1 ?_)).trans
            ((TableKept.setSlot 2 ?_).trans (answer_tableKept _ _)))
          all_goals
            rintro h ⟨⟩
            simp only [State.setSlot_hp, List.length_append, List.length_singleton]
            omega

theorem hnew_tableKept (caps : BitVec 5) (s : State) : TableKept s (hnew caps s) := by
  unfold hnew hnewIn
  split
  · exact answer_tableKept s _
  · rename_i h hp1 hnew
    exact (TableKept.create (newHandle_inv caps) hnew).trans (answer_tableKept _ _)

theorem install_tableKept (slot : BitVec 16) (w : Word) (s : State) : TableKept s (install slot w s) := by
  unfold install State.handle?
  split
  · exact answer_tableKept s _
  · split
    · exact answer_tableKept s _
    · rename_i hd hlive
      refine (TableKept.setSlot slot.toNat ?_).trans (answer_tableKept _ _)
      rintro h ⟨⟩
      exact (List.getElem?_eq_some_iff.mp hlive).1

theorem fread_tableKept (slot : BitVec 16) (n : Word) (s : State) : TableKept s (fread slot n s) := by
  unfold fread
  split
  · exact answer_tableKept s _
  · rename_i h hd hslot
    split
    · exact (TableKept.setHandle (slotHandle?_eq_some.mp hslot).2 (readAdvance_kept n hd)).trans (answer_tableKept _ _)
    · exact answer_tableKept s _

theorem fwrite_tableKept (slot : BitVec 16) (bytes : List Byte) (s : State) : TableKept s (fwrite slot bytes s) := by
  unfold fwrite
  split
  · exact answer_tableKept s _
  · rename_i h hd hslot
    split
    · exact (TableKept.setHandle (slotHandle?_eq_some.mp hslot).2 (writeThrough_kept bytes hd)).trans
        (answer_tableKept _ _)
    · exact answer_tableKept s _

theorem hfeed_tableKept (hid : BitVec 16) (bytes : List Byte) (s : State) : TableKept s (hfeed hid bytes s) := by
  unfold hfeed State.handle?
  split
  · exact answer_tableKept s _
  · rename_i hd hlive
    exact (TableKept.setHandle hlive (feed_kept bytes hd)).trans (answer_tableKept _ _)

theorem hdump_tableKept (hid : BitVec 16) (s : State) : TableKept s (hdump hid s) := by
  unfold hdump
  split <;> exact answer_tableKept s _

theorem fdopen_tableKept (w : Word) (s : State) : TableKept s (fdopen w s) := by
  unfold fdopen State.handle?
  split
  · exact answer_tableKept s _
  · rename_i hd hlive
    split
    · exact answer_tableKept s _
    · rename_i slot _
      refine (TableKept.setSlot slot ?_).trans (answer_tableKept _ _)
      rintro h ⟨⟩
      exact (List.getElem?_eq_some_iff.mp hlive).1

theorem fdclose_tableKept (slot : BitVec 16) (s : State) : TableKept s (fdclose slot s) := by
  unfold fdclose
  split
  · exact (TableKept.setSlot slot.toNat (by rintro h ⟨⟩)).trans (answer_tableKept _ _)
  · exact answer_tableKept s _
  · exact answer_tableKept s _

theorem ioplassign_tableKept (w : Word) (s : State) : TableKept s (ioplassign w s) := by
  unfold ioplassign
  split <;> exact .of_same rfl rfl

theorem initIn_tableKept (env : Env) (bytes : List Byte) (s : State) : TableKept s (initIn env bytes s) := by
  obtain ⟨-, he⟩ | ⟨ops, -, ⟨-, he⟩ | ⟨-, -, he⟩ | ⟨r, -, -, -, -, he⟩⟩ := initIn_cases env bytes s <;> rw [he]
  · exact answer_tableKept s _
  · exact answer_tableKept s _
  · exact .of_same rfl rfl
  · refine .of_same_pool rfl fun slot h hk => ?_
    have hempty := List.eq_of_mem_replicate (List.mem_of_getElem? hk)
    cases hempty

theorem unitCommand_tableKept (i : Instr) (s : State) : TableKept s (unitCommand i s) := by
  cases i with
  | ioplassign v => exact ioplassign_tableKept v s
  | fread slot n => exact fread_tableKept slot n s
  | fwrite slot bytes => exact fwrite_tableKept slot bytes s
  | fdopen w => exact fdopen_tableKept w s
  | fdclose slot => exact fdclose_tableKept slot s
  | _ => exact .of_same rfl rfl

theorem performIu_tableKept (c : Command) (s : State) : TableKept s (performIu c s) := by
  unfold performIu
  split
  · exact unitCommand_tableKept _ s
  · exact answer_tableKept s _

/-- The frame of a command on port HS. -/
theorem performHs_frame (c : Command) (s : State) : Frame s (performHs c s) := by
  obtain ⟨hid, bytes, hd, -, he⟩ | ⟨r, he⟩ := performHs_cases c s <;> rw [he]
  · exact ⟨rfl, rfl, rfl, rfl, rfl, rfl, rfl, rfl, rfl, rfl⟩
  · exact answer_frame s r

theorem performHs_tableKept (c : Command) (s : State) : TableKept s (performHs c s) := by
  obtain ⟨hid, bytes, hd, hlive, he⟩ | ⟨r, he⟩ := performHs_cases c s <;> rw [he]
  · exact (TableKept.setHandle hlive (feed_kept bytes hd)).trans (answer_tableKept _ _)
  · exact answer_tableKept s r

/-! ### A whole `EXEC` -/

theorem tableKept_accessClosed (env : Env) : AccessClosed env TableKept where
  refl := .refl
  trans := .trans
  draw _ := .of_same rfl rfl
  take _ _ _ _ := .of_same rfl rfl
  host := performHs_tableKept
  deliver _ := .of_same rfl rfl
  unit := performIu_tableKept
  setPc _ _ := .of_same rfl rfl
  write _ _ _ _ _ _ := .of_same rfl rfl
  grow _ _ _ := .of_same rfl rfl
  shrink _ _ := .of_same rfl rfl

theorem execIn_tableKept (env : Env) (budget : Word) (s : State) : TableKept s (execIn env budget s) := by
  by_cases hx : s.xstate = .running
  · rw [execIn_running budget hx]
    exact ((tableKept_accessClosed env).runCycles_rel (fun _ _ => .of_same rfl rfl) (fun _ _ => .of_same rfl rfl)
      _ _ _).trans (answer_tableKept _ _)
  · rw [execIn_notRunning budget hx]
    exact answer_tableKept s _

end Sys2Proof.Machine
end

section
/-! SUPPORT. What a command and a step can do, said once: a command is `INIT`, or `EXEC`, or stays within the frame of
`Laws/Cycle.lean`; a step serves one input of the host. -/

namespace Sys2Proof.Machine

open Sys2Proof.Claims

/-! ### One command -/

/-- A command that the instruction unit may issue too means the same on port HC (R99). -/
theorem exec_eq_unitCommand {i : Instr} (s : State) (h : Instr.hostOnly i = false) :
    exec i s = .next (unitCommand i s) := by
  cases i with
  | init | exec | stateget | errget | retget | stdio | hnew | install | hfeed | hdump => cases h
  | _ => rfl

/-- A command is `INIT`, or `EXEC`, or stays within the frame and keeps what `TableKept` says. -/
theorem exec_cases {i : Instr} {s t : State} (h : exec i s = .next t) :
    (∃ bytes, i = .init bytes ∧ t = initIn Config.env bytes s) ∨
    (∃ budget, i = .exec budget ∧ t = execIn Config.env budget s) ∨
    (Frame s t ∧ TableKept s t) := by
  cases hu : Instr.hostOnly i with
  | false =>
    rw [exec_eq_unitCommand s hu] at h
    cases h
    exact .inr (.inr ⟨unitCommand_frame i s, unitCommand_tableKept i s⟩)
  | true =>
    cases i with
    | init bytes => cases h; exact .inl ⟨bytes, rfl, rfl⟩
    | exec budget => cases h; exact .inr (.inl ⟨budget, rfl, rfl⟩)
    | stateget | errget | retget => cases h; exact .inr (.inr ⟨answer_frame s _, answer_tableKept s _⟩)
    | stdio => cases h; exact .inr (.inr ⟨stdioIn_frame _ s, stdio_tableKept s⟩)
    | hnew caps => cases h; exact .inr (.inr ⟨hnewIn_frame _ caps s, hnew_tableKept caps s⟩)
    | install slot w => cases h; exact .inr (.inr ⟨install_frame slot w s, install_tableKept slot w s⟩)
    | hfeed hid bytes => cases h; exact .inr (.inr ⟨hfeed_frame hid bytes s, hfeed_tableKept hid bytes s⟩)
    | hdump hid => cases h; exact .inr (.inr ⟨hdump_frame hid s, hdump_tableKept hid s⟩)
    | _ => cases hu

theorem exec_tableKept {i : Instr} {s t : State} (h : exec i s = .next t) : TableKept s t := by
  obtain ⟨bytes, -, rfl⟩ | ⟨budget, -, rfl⟩ | ⟨-, ht⟩ := exec_cases h
  · exact initIn_tableKept _ bytes s
  · exact execIn_tableKept _ budget s
  · exact ht

/-! ### One step -/

/-- All that a step can do: nothing, a command of port HC, a command of port HS, or a reset. -/
theorem step_cases {s t : State} (h : step s = .next t) :
    (s.inputs = [] ∧ t = s) ∨
    (∃ c rest u, s.inputs = .hc c :: rest ∧ performHc c { s with inputs := rest } = .next u ∧ t = u.answerHc) ∨
    (∃ c rest, s.inputs = .hs c :: rest ∧ t = (performHs c { s with inputs := rest }).answerHs) ∨
    ∃ rest, s.inputs = .reset :: rest ∧ t = s.resetEvent rest := by
  rw [step_eq] at h
  split at h
  · rename_i hi
    cases h
    exact .inl ⟨hi, rfl⟩
  · rename_i c rest hi
    cases hp : performHc c { s with inputs := rest } with
    | next u =>
      rw [hp] at h
      cases h
      exact .inr (.inl ⟨c, rest, u, hi, hp, rfl⟩)
    | fault f => cases f
    | refused r => rw [hp] at h; cases h
  · rename_i c rest hi
    cases h
    exact .inr (.inr (.inl ⟨c, rest, hi, rfl⟩))
  · rename_i rest hi
    cases h
    exact .inr (.inr (.inr ⟨rest, hi, rfl⟩))

/-- A relation between states that everything a step does keeps, but for a reset. -/
structure StepClosed (R : State → State → Prop) : Prop where
  refl : ∀ s, R s s
  trans : ∀ {s t u}, R s t → R t u → R s u
  take : ∀ s x rest, s.inputs = x :: rest → R s { s with inputs := rest }
  command : ∀ i s t, exec i s = .next t → R s t
  reject : ∀ s, R s s.rejectCommand
  host : ∀ c s, R s (performHs c s)
  deliver : ∀ s outputs, R s { s with outputs := outputs }

/-- What a command and the handling of the queues keep, every step but a reset keeps. -/
theorem StepClosed.step_rel {R : State → State → Prop} (hR : StepClosed R) {s t : State} (h : step s = .next t)
    (hreset : ∀ rest, s.inputs ≠ .reset :: rest) : R s t := by
  obtain ⟨-, rfl⟩ | ⟨c, rest, u, hi, hu, rfl⟩ | ⟨c, rest, hi, rfl⟩ | ⟨rest, hi, -⟩ := step_cases h
  · exact hR.refl _
  · refine hR.trans (hR.take s _ rest hi) (hR.trans ?_ (hR.deliver u _))
    unfold performHc at hu
    split at hu
    · exact hR.command _ _ _ hu
    · cases hu
      exact hR.reject _
  · exact hR.trans (hR.take s _ rest hi) (hR.trans (hR.host c _) (hR.deliver _ _))
  · exact absurd hi (hreset rest)

/-! ### Live handles -/

theorem tableKept_stepClosed : StepClosed TableKept where
  refl := .refl
  trans := .trans
  take _ _ _ _ := .of_same rfl rfl
  command _ _ _ := exec_tableKept
  reject s := answer_tableKept s _
  host := performHs_tableKept
  deliver _ _ := .of_same rfl rfl

/-- Settles O57: every step but a reset keeps the pool as `TableKept` says. -/
theorem handlesStayLiveWithTheirFlags : Obligations.HandlesStayLiveWithTheirFlags := by
  intro s t h hd hstep hreset hlive
  obtain ⟨hd', hlive', hk⟩ := (tableKept_stepClosed.step_rel hstep hreset).kept h hd hlive
  exact ⟨hd', hlive', hk.flags, hk.length, hk.extended⟩

/-! ### Terminal execution states -/

/-- `Terminated` or `Error` (R33). -/
def Terminal (x : XState) : Prop := (∃ rc, x = .terminated rc) ∨ ∃ k, x = .error k

theorem Terminal.ne_running {x : XState} (h : Terminal x) : x ≠ .running := by
  rcases h with ⟨rc, rfl⟩ | ⟨k, rfl⟩ <;> nofun

theorem Terminal.ne_uninitialized {x : XState} (h : Terminal x) : x ≠ .uninitialized := by
  rcases h with ⟨rc, rfl⟩ | ⟨k, rfl⟩ <;> nofun

/-- In a terminal execution state `INIT` and `EXEC` only answer (R222, R228), so every command stays within the frame. -/
theorem exec_frame_of_terminal {i : Instr} {s t : State} (hx : Terminal s.xstate) (h : exec i s = .next t) :
    Frame s t := by
  obtain ⟨bytes, -, rfl⟩ | ⟨budget, -, rfl⟩ | ⟨hf, -⟩ := exec_cases h
  · obtain ⟨-, he⟩ | ⟨ops, -, ⟨-, he⟩ | ⟨hu, -⟩ | ⟨r, hu, -⟩⟩ := initIn_cases Config.env bytes s
    · exact he ▸ answer_frame s _
    · exact he ▸ answer_frame s _
    · exact absurd hu hx.ne_uninitialized
    · exact absurd hu hx.ne_uninitialized
  · exact execIn_notRunning (env := Config.env) budget hx.ne_running ▸ answer_frame s _
  · exact hf

/-- What a step leaves alone once the execution state is terminal; what the host presented is only taken away. -/
structure Stuck (s t : State) : Prop where
  xstate : t.xstate = s.xstate
  pc : t.pc = s.pc
  mem : t.mem = s.mem
  inputs : ∀ x ∈ t.inputs, x ∈ s.inputs

theorem Frame.stuck {s t : State} (h : Frame s t) : Stuck s t :=
  ⟨h.xstate, h.pc, h.mem, fun _ hx => h.inputs ▸ hx⟩

theorem Stuck.trans {s t u : State} (hst : Stuck s t) (htu : Stuck t u) : Stuck s u :=
  ⟨htu.xstate.trans hst.xstate, htu.pc.trans hst.pc, htu.mem.trans hst.mem, fun x hx => hst.inputs x (htu.inputs x hx)⟩

theorem stuck_stepClosed : StepClosed fun s t => Terminal s.xstate → Stuck s t where
  refl s _ := (Frame.refl s).stuck
  trans hst htu hx := (hst hx).trans (htu ((hst hx).xstate ▸ hx))
  take _ x _ hi _ := ⟨rfl, rfl, rfl, fun _ hy => hi ▸ List.mem_cons_of_mem x hy⟩
  command _ _ _ h hx := (exec_frame_of_terminal hx h).stuck
  reject s _ := (answer_frame s _).stuck
  host c s _ := (performHs_frame c s).stuck
  deliver _ _ _ := ⟨rfl, rfl, rfl, fun _ hy => hy⟩

/-- Settles O36, by induction on the number of steps: a step from a terminal state is stuck and presents no reset. -/
theorem terminalStatesAreSticky : Obligations.TerminalStatesAreSticky := by
  intro n
  induction n with
  | zero =>
    rintro s t - - rfl
    exact ⟨rfl, rfl, rfl⟩
  | succ n ih =>
    rintro s t hno hx ⟨u, hstep, hafter⟩
    have hsu : Stuck s u := stuck_stepClosed.step_rel hstep (fun rest hi => hno (hi ▸ List.mem_cons_self)) hx
    obtain ⟨hxt, hpc, hmem⟩ := ih u t (fun hreset => hno (hsu.inputs _ hreset)) (hsu.xstate ▸ hx) hafter
    exact ⟨hxt.trans hsu.xstate, hpc.trans hsu.pc, hmem.trans hsu.mem⟩

/-! ### The invariant -/

/-- What the invariant looks at beside the pool and the ids in the table. -/
structure ImageSame (s t : State) : Prop where
  xstate : t.xstate = s.xstate
  initFailed : t.initFailed = s.initFailed
  mem : t.mem = s.mem
  maxMemory : t.maxMemory = s.maxMemory
  slots : t.fd.length = s.fd.length

theorem Frame.imageSame {s t : State} (h : Frame s t) : ImageSame s t :=
  ⟨h.xstate, h.initFailed, h.mem, h.maxMemory, h.slots⟩

/-- The part of the invariant that speaks of handles, after an act that keeps the pool and the table. -/
theorem State.Inv.pool_of_kept {s t : State} (hs : s.Inv) (ht : TableKept s t) :
    t.hp.length ≤ Config.nHandles ∧ (∀ (h : Nat) (hd : Handle), t.hp[h]? = some hd → hd.Inv) ∧
      ∀ slot h : Nat, t.fd[slot]? = some (some h) → h < t.hp.length := by
  refine ⟨ht.room hs.poolBound, fun h hd hlive => ?_, fun slot h hslot => ?_⟩
  · by_cases hlt : h < s.hp.length
    · have hold := List.getElem?_eq_getElem hlt
      obtain ⟨hd', hlive', hk⟩ := ht.kept h _ hold
      rw [hlive] at hlive'
      cases hlive'
      exact hk.cursor (hs.cursors h _ hold)
    · exact ht.fresh h hd (by omega) hlive
  · rcases ht.slots slot h hslot with hold | hlt
    · exact Nat.lt_of_lt_of_le (hs.slotsLive slot h hold) ht.length_le
    · exact hlt

/-- An act that leaves the engine's state alone and keeps the pool and the table keeps the invariant. -/
theorem State.Inv.of_kept {s t : State} (hs : s.Inv) (hi : ImageSame s t) (ht : TableKept s t) : t.Inv := by
  obtain ⟨hpool, hcursors, hslots⟩ := hs.pool_of_kept ht
  exact {
    memWf := hi.mem ▸ hs.memWf
    memBound := by rw [hi.mem, hi.maxMemory]; exact hs.memBound
    tableBound := hi.slots ▸ hs.tableBound
    poolBound := hpool
    cursors := hcursors
    slotsLive := hslots
    latch := fun hf => hi.xstate.trans (hs.latch (hi.initFailed ▸ hf))
    noImage := fun hx => by
      obtain ⟨hsize, hempty⟩ := hs.noImage (hi.xstate ▸ hx)
      exact ⟨hi.mem ▸ hsize, List.eq_nil_of_length_eq_zero (by rw [hi.slots, hempty]; rfl)⟩ }

/-- The invariant in an execution state past `INIT`, the only ones in which the image and the execution state change. -/
structure State.Active (s : State) : Prop where
  inv : s.Inv
  started : s.xstate ≠ .uninitialized

theorem State.Active.of_kept {s t : State} (hs : s.Active) (hi : ImageSame s t) (ht : TableKept s t) : t.Active :=
  ⟨hs.inv.of_kept hi ht, hi.xstate ▸ hs.started⟩

/-- A canonical image within `max_memory` may be put in place of the old one. -/
theorem State.Active.setMem {s : State} (hs : s.Active) {m : Memory} (hwf : m.wf = true)
    (hbound : m.size ≤ s.maxMemory.toNat) : (s.setMem m).Active where
  inv := { hs.inv with
    memWf := hwf
    memBound := hbound
    noImage := fun hx => absurd hx hs.started }
  started := hs.started

/-- The execution state may become another one past `INIT`: the latch is clear. -/
theorem State.Active.setXstate {s : State} (hs : s.Active) {x : XState} (hx : x ≠ .uninitialized) :
    State.Active { s with xstate := x } where
  inv := { hs.inv with
    latch := fun hf => absurd (hs.inv.latch hf) hs.started
    noImage := fun he => absurd he hx }
  started := hx

theorem active_accessClosed (env : Env) : AccessClosed env fun s t => s.Active → t.Active where
  refl _ := id
  trans hst htu := htu ∘ hst
  draw _ hs := hs.of_kept ⟨rfl, rfl, rfl, rfl, rfl⟩ (.of_same rfl rfl)
  take _ _ _ _ hs := hs.of_kept ⟨rfl, rfl, rfl, rfl, rfl⟩ (.of_same rfl rfl)
  host c s hs := hs.of_kept (performHs_frame c s).imageSame (performHs_tableKept c s)
  deliver _ hs := hs.of_kept ⟨rfl, rfl, rfl, rfl, rfl⟩ (.of_same rfl rfl)
  unit c s hs := hs.of_kept (performIu_frame c s).imageSame (performIu_tableKept c s)
  setPc _ _ hs := hs.of_kept ⟨rfl, rfl, rfl, rfl, rfl⟩ (.of_same rfl rfl)
  write _ _ _ _ _ hw hs :=
    hs.setMem (Memory.write_wf hs.inv.memWf hw) (Memory.write_size hw ▸ hs.inv.memBound)
  grow _ bytes hg hs := hs.setMem (Memory.grow_wf hs.inv.memWf bytes) (of_decide_eq_true hg)
  shrink _ size hs :=
    hs.setMem (Memory.shrink_wf hs.inv.memWf size) ((Nat.min_le_right size _).trans hs.inv.memBound)

theorem execIn_inv (env : Env) (budget : Word) {s : State} (hs : s.Inv) : (execIn env budget s).Inv := by
  by_cases hx : s.xstate = .running
  · rw [execIn_running budget hx]
    have hend := (active_accessClosed env).runCycles_rel
      (fun rc _ hs => hs.setXstate (x := .terminated rc) nofun)
      (fun k _ hs => hs.setXstate (x := .error k) nofun) budget.toNat 0 s ⟨hs, by rw [hx]; nofun⟩
    exact hend.inv.of_kept (answer_frame _ _).imageSame (answer_tableKept _ _)
  · rw [execIn_notRunning budget hx]
    exact hs.of_kept (answer_frame s _).imageSame (answer_tableKept s _)

/-- A loader result within the limits establishes the invariant again (R222, R233). -/
theorem initSucceeds_inv {env : Env} {ops : LoadOperands} {r : LoadResult} {s : State} (hs : s.Inv)
    (hclear : s.initFailed = false) (hfiles : ops.maxFiles.toNat ≤ 65536) (hload : loadImage env ops = some r) :
    (s.initSucceeds ops r).Inv := by
  obtain ⟨-, hfits, -⟩ := loadImage_eq_some.mp hload
  exact {
    memWf := imageOf_wf r.image
    memBound := hfits
    tableBound := (List.length_replicate (n := ops.maxFiles.toNat)).trans_le hfiles
    poolBound := hs.poolBound
    cursors := hs.cursors
    slotsLive := fun slot h hslot => by
      have hempty := List.eq_of_mem_replicate (List.mem_of_getElem? hslot)
      cases hempty
    latch := fun hf => by
      have hset : s.initFailed = true := hf
      rw [hclear] at hset
      cases hset
    noImage := nofun }

theorem initIn_inv (env : Env) (bytes : List Byte) {s : State} (hs : s.Inv) : (initIn env bytes s).Inv := by
  have hanswer : ∀ r, (s.answer r).Inv := fun r => hs.of_kept (answer_frame s r).imageSame (answer_tableKept s r)
  obtain ⟨-, he⟩ | ⟨ops, -, ⟨-, he⟩ | ⟨hx, -, he⟩ | ⟨r, -, hclear, hfiles, hload, he⟩⟩ := initIn_cases env bytes s <;>
    rw [he]
  · exact hanswer _
  · exact hanswer _
  · exact { hs with latch := fun _ => hx }
  · exact initSucceeds_inv hs hclear hfiles hload

theorem inv_stepClosed : StepClosed fun s t => s.Inv → t.Inv where
  refl _ := id
  trans hst htu := htu ∘ hst
  take _ _ _ _ hs := hs.of_kept ⟨rfl, rfl, rfl, rfl, rfl⟩ (.of_same rfl rfl)
  command i s t h hs := by
    obtain ⟨bytes, -, rfl⟩ | ⟨budget, -, rfl⟩ | ⟨hf, ht⟩ := exec_cases h
    · exact initIn_inv _ bytes hs
    · exact execIn_inv _ budget hs
    · exact hs.of_kept hf.imageSame ht
  reject s hs := hs.of_kept (answer_frame s _).imageSame (answer_tableKept s _)
  host c s hs := hs.of_kept (performHs_frame c s).imageSame (performHs_tableKept c s)
  deliver _ _ hs := hs.of_kept ⟨rfl, rfl, rfl, rfl, rfl⟩ (.of_same rfl rfl)

theorem afterReset_inv (d : ResetDraw) : (State.afterReset d).Inv where
  memWf := rfl
  memBound := Nat.zero_le _
  tableBound := Nat.zero_le _
  poolBound := Nat.zero_le _
  cursors := nofun
  slotsLive := nofun
  latch := nofun
  noImage _ := ⟨rfl, rfl⟩

theorem resetEvent_inv (waiting : List HostInput) (s : State) : (s.resetEvent waiting).Inv :=
  (afterReset_inv (Config.resetDraw s.draws)).of_kept ⟨rfl, rfl, rfl, rfl, rfl⟩ (.of_same rfl rfl)

/-- Settles O59: a reset establishes the invariant, and everything else a step does keeps it. -/
theorem stepKeepsTheInvariant : Obligations.StepKeepsTheInvariant := by
  intro s t hs hstep
  by_cases hreset : ∃ rest, s.inputs = .reset :: rest
  · obtain ⟨rest, hi⟩ := hreset
    rw [step_eq, hi] at hstep
    cases hstep
    exact resetEvent_inv rest s
  · exact inv_stepClosed.step_rel hstep (fun rest hi => hreset ⟨rest, hi⟩) hs

/-- Settles O58, with `State.reset` one of the states after reset. -/
theorem resetEstablishesTheInvariant : Obligations.ResetEstablishesTheInvariant :=
  ⟨afterReset_inv, afterReset_inv _⟩

/-- Settles O60: the state of `resetEvent`, field by field. -/
theorem resetEventClearsTheBlock : Obligations.ResetEventClearsTheBlock := by
  intro s t rest hi hstep
  rw [step_eq, hi] at hstep
  cases hstep
  exact ⟨rfl, rfl, rfl, rfl, rfl, rfl, rfl⟩

end Sys2Proof.Machine
end

section
/-! SUPPORT. Views share one storage, the high-byte views, a successful `INIT`, and what a command does not look at. -/

namespace Sys2Proof.Machine

open Sys2Proof.Claims

/-! ### Registers -/

theorem exec_rget (v : View) (reg : RegIdx) (s : State) : exec (.rget v reg) s = .next (viewGet v reg s) := by
  cases v <;> rfl

theorem exec_rset (v : View) (reg : RegIdx) (value : Word) (s : State) :
    exec (.rset v reg value) s = .next (viewSet v reg value s) := by
  cases v <;> rfl

@[simp] theorem viewGet_rdata (v : View) (reg : RegIdx) (s : State) :
    (viewGet v reg s).resp.rdata = viewRead v (s.reg reg) := rfl

theorem viewSet_reg_same (v : View) (reg : RegIdx) (value : Word) (s : State) :
    (viewSet v reg value s).reg reg = viewWrite v (s.reg reg) value := by
  simp [viewSet, State.reg]

theorem viewSet_reg_other (v : View) {reg other : RegIdx} (value : Word) (s : State) (h : other ≠ reg) :
    (viewSet v reg value s).reg other = s.reg other := by
  have hne : reg.val ≠ other.val := fun e => h (Fin.ext e.symm)
  simp [viewSet, State.reg, hne]

/-- Settles O15: the written register bit by bit (`getLsbD_viewWrite`), read through the other view
(`getLsbD_viewRead`). -/
theorem viewsShareOneStorage : Obligations.ViewsShareOneStorage := by
  intro V W reg other value s t u r r' hset hget hold hnew
  unfold Runs at hset hget hold hnew
  rw [exec_rset] at hset
  rw [exec_rget] at hget hold hnew
  cases hset
  cases hget
  cases hold
  cases hnew
  refine ⟨fun j hj => ?_, fun hne => ?_⟩
  · have hfit := viewLow_add_viewWidth_le W
    have hpos := viewWidth_pos W
    dsimp only
    rw [viewGet_rdata, viewSet_reg_same, getLsbD_viewRead W _ j hj]
    by_cases hin : j < viewWidth W
    · rw [if_pos hin, if_pos hin, getLsbD_viewWrite V _ _ _ (by omega)]
      rfl
    · rw [if_neg hin, if_neg hin, ← Nat.add_sub_assoc hpos, getLsbD_viewWrite V _ _ _ (by omega)]
      rfl
  · show okData _ = okData _
    rw [viewSet_reg_other V value s hne]

/-- What format `R` answers for the code of a view and a register (R83, R92(d)). -/
theorem formatR_codeOfView (v : View) (reg : RegIdx) (mk : View → RegIdx → Instr) :
    formatR (codeOfView v) (BitVec.ofNat 16 reg.val) mk =
      if v.isHigh && !highReg reg then .error .highByteRegister else .ok (mk v reg) := by
  have hidx : (BitVec.ofNat 16 reg.val).toNat = reg.val := by
    rw [BitVec.toNat_ofNat]
    exact Nat.mod_eq_of_lt (by have := reg.isLt; omega)
  simp [formatR, hidx]

/-- What a word of format `R` is read as (R82, R87, R88): the opcode's and the view's first word, plus the register. -/
theorem decode_formatR {word : Nat} {op : BitVec 8} {mk : View → RegIdx → Instr} {wdata : Word} {payload : List Byte}
    (v : View) (reg : RegIdx) (hword : word = op.toNat * 2 ^ 24 + (codeOfView v).toNat * 2 ^ 16)
    (hop : ∀ sel idx, decodeFields op sel idx wdata payload = formatR sel idx mk) :
    decode { cmd := BitVec.ofNat 32 (word + reg.val), wdata := wdata, payload := payload } =
      if v.isHigh && !highReg reg then .error .highByteRegister else .ok (mk v reg) := by
  have hidx : (BitVec.ofNat 16 reg.val).toNat = reg.val := by
    rw [BitVec.toNat_ofNat]
    exact Nat.mod_eq_of_lt (by have := reg.isLt; omega)
  have hpack : BitVec.ofNat 32 (word + reg.val) = packFields op (codeOfView v) (BitVec.ofNat 16 reg.val) := by
    rw [packFields, hidx, hword]
  rw [hpack, decode_of_fields (opField_packFields ..) (selField_packFields ..) (idxField_packFields ..), hop,
    formatR_codeOfView]

/-- An illegal command word is answered `BadCommand` on port HC, and nothing of the block changes (R92). -/
theorem step_of_reject {s : State} {c : Command} {rest : List HostInput} {e : Reject} (hc : decode c = .error e)
    (hi : s.inputs = .hc c :: rest) :
    step s = .next { s with inputs := rest, resp := { status := .badCommand },
                            outputs := s.outputs ++ [.hc { status := .badCommand }] } := by
  rw [step_eq, hi]
  simp only [performHc, hc]
  rfl

/-- Settles O14: each of the four words is a word of format `R` with a high-byte view. -/
theorem highByteViewsOfFourRegisters : Obligations.HighByteViewsOfFourRegisters := by
  intro reg wdata payload word i hmem c
  have hdecode : decode c = if !highReg reg then .error .highByteRegister else .ok i := by
    simp only [List.mem_cons, List.not_mem_nil, or_false, Prod.mk.injEq] at hmem
    obtain ⟨rfl, rfl⟩ | ⟨rfl, rfl⟩ | ⟨rfl, rfl⟩ | ⟨rfl, rfl⟩ := hmem
    · exact decode_formatR (op := 0x10#8) .u8h reg rfl fun _ _ => rfl
    · exact decode_formatR (op := 0x10#8) .i8h reg rfl fun _ _ => rfl
    · exact decode_formatR (op := 0x11#8) (mk := fun v reg => .rset v reg wdata) .u8h reg rfl fun _ _ => rfl
    · exact decode_formatR (op := 0x11#8) (mk := fun v reg => .rset v reg wdata) .i8h reg rfl fun _ _ => rfl
  refine ⟨fun hlow => ?_, fun hhigh => ?_⟩
  · rw [hdecode, if_neg (by simpa [highReg] using hlow)]
  · have hreject : decode c = .error .highByteRegister := by
      rw [hdecode, if_pos (by simpa [highReg] using hhigh)]
    exact ⟨hreject, fun s rest hi => step_of_reject hreject hi⟩

/-! ### A successful `INIT` -/

/-- The word of `INIT` (R87). -/
theorem decode_init : Names 0x30000000 fun _ payload => .init payload := by
  intro wdata payload
  rw [decode_of_fields (op := 0x30#8) (sel := 0#8) (idx := 0#16) (by decide) (by decide) (by decide)]
  exact formatN_eq_ok.mpr ⟨rfl, rfl, rfl⟩

/-- Settles O26: the guards of `initIn` let the payload through, and the image is that of `imageOf`. -/
theorem initLoadsTheImage : Obligations.InitLoadsTheImage := by
  refine ⟨decode_init, fun _ _ => rfl, ?_⟩
  rintro env bytes ops r mm ss mf s hops hx hclear rfl rfl rfl hfiles hload hfits hroom
  have hguard : loadImage env (loadOperands env ops) = some r := loadImage_eq_some.mpr ⟨hload, hfits, hroom⟩
  refine ⟨imageOf r.image, ?_, rfl, imageOf_wf _, fun a _ => imageOf_byte _ a⟩
  have hstate : ¬(s.xstate ≠ .uninitialized ∨ s.initFailed = true) := by simp [hx, hclear]
  have hmax : ¬(loadOperands env ops).maxFiles.toNat > 65536 := Nat.not_lt.mpr hfiles
  simp only [initIn, hops, if_neg hstate, if_neg hmax, hguard]
  rfl

/-! ### What a command does not look at -/

/-- An update of parts of the state that the file commands neither look at nor change: it leaves the pool and the table, and
does not matter before or after they or the response are set. -/
structure Overlooked (upd : State → State) : Prop where
  fd : ∀ s, (upd s).fd = s.fd
  hp : ∀ s, (upd s).hp = s.hp
  answer : ∀ r s, (upd s).answer r = upd (s.answer r)
  table : ∀ s fd hp, { upd s with fd := fd, hp := hp } = upd { s with fd := fd, hp := hp }

namespace Overlooked

variable {upd : State → State} (hu : Overlooked upd) (s : State)
include hu

theorem fdCap : (upd s).fdCap = s.fdCap := by rw [State.fdCap, hu.fd]; rfl

theorem setPool (hp : List Handle) : { upd s with hp := hp } = upd { s with hp := hp } := by
  rw [← hu.table s s.fd hp, ← hu.fd]

theorem setHandle (h : Nat) (hd : Handle) : (upd s).setHandle h hd = upd (s.setHandle h hd) := by
  rw [State.setHandle, hu.setPool, hu.hp]
  rfl

theorem setSlot (slot : Nat) (entry : Option Nat) : (upd s).setSlot slot entry = upd (s.setSlot slot entry) := by
  rw [State.setSlot, hu.fd]
  calc { upd s with fd := s.fd.set slot entry }
      = { upd s with fd := s.fd.set slot entry, hp := s.hp } := by rw [← hu.hp s]
    _ = upd (s.setSlot slot entry) := hu.table ..

theorem handle? (h : Nat) : (upd s).handle? h = s.handle? h := by rw [State.handle?, hu.hp]; rfl

theorem slotHandle? (slot : Nat) : (upd s).slotHandle? slot = s.slotHandle? slot := by
  simp only [State.slotHandle?, hu.fd, hu.hp]

theorem stdio : Machine.stdio (upd s) = upd (Machine.stdio s) := by
  simp only [Machine.stdio, stdioIn, hu.fdCap, hu.fd, hu.hp, hu.answer, hu.table]
  split
  · rfl
  · split
    · rfl
    · split
      · rfl
      · split <;> rfl

theorem hnew (caps : BitVec 5) : Machine.hnew caps (upd s) = upd (Machine.hnew caps s) := by
  simp only [Machine.hnew, hnewIn, hu.hp, hu.answer, hu.setPool]
  split <;> rfl

theorem install (slot : BitVec 16) (w : Word) : Machine.install slot w (upd s) = upd (Machine.install slot w s) := by
  simp only [Machine.install, hu.fdCap, hu.handle?, hu.answer, hu.setSlot]
  split
  · rfl
  · split <;> rfl

theorem fread (slot : BitVec 16) (n : Word) : Machine.fread slot n (upd s) = upd (Machine.fread slot n s) := by
  simp only [Machine.fread, hu.slotHandle?, hu.answer, hu.setHandle]
  split
  · rfl
  · split <;> rfl

theorem fwrite (slot : BitVec 16) (bytes : List Byte) :
    Machine.fwrite slot bytes (upd s) = upd (Machine.fwrite slot bytes s) := by
  simp only [Machine.fwrite, hu.slotHandle?, hu.answer, hu.setHandle]
  split
  · rfl
  · split <;> rfl

theorem hfeed (hid : BitVec 16) (bytes : List Byte) :
    Machine.hfeed hid bytes (upd s) = upd (Machine.hfeed hid bytes s) := by
  simp only [Machine.hfeed, hu.handle?, hu.answer, hu.setHandle]
  split <;> rfl

theorem hdump (hid : BitVec 16) : Machine.hdump hid (upd s) = upd (Machine.hdump hid s) := by
  simp only [Machine.hdump, hu.handle?, hu.answer]
  split <;> rfl

theorem fdopen (w : Word) : Machine.fdopen w (upd s) = upd (Machine.fdopen w s) := by
  simp only [Machine.fdopen, State.emptySlot?, hu.fd, hu.handle?, hu.answer, hu.setSlot]
  split
  · rfl
  · split <;> rfl

theorem fdclose (slot : BitVec 16) : Machine.fdclose slot (upd s) = upd (Machine.fdclose slot s) := by
  simp only [Machine.fdclose, hu.fd, hu.answer, hu.setSlot]
  split <;> rfl

/-- `IOPLASSIGN` looks at the flags besides. -/
theorem ioplassign (hflags : ∀ s, (upd s).flags = s.flags) (hset : ∀ f s, (upd s).setFlags f = upd (s.setFlags f))
    (v : Word) : Machine.ioplassign v (upd s) = upd (Machine.ioplassign v s) := by
  simp only [Machine.ioplassign, hflags, hset, hu.answer]
  split <;> rfl

end Overlooked

/-- The nine commands of the file handle table (R260). -/
def isFileCommand : Instr → Bool
  | .stdio | .hnew _ | .install _ _ | .fread _ _ | .fwrite _ _ | .hfeed _ _ | .hdump _ | .fdopen _ | .fdclose _ => true
  | _ => false

/-- A file command goes the same way whatever an overlooked part of the state holds, and leaves it (R260). -/
theorem Overlooked.exec_file {upd : State → State} (hu : Overlooked upd) {i : Instr} {s t : State}
    (hf : isFileCommand i = true) (h : exec i s = .next t) : exec i (upd s) = .next (upd t) := by
  cases i with
  | stdio => cases h; exact congrArg _ (hu.stdio s)
  | hnew caps => cases h; exact congrArg _ (hu.hnew s caps)
  | install slot w => cases h; exact congrArg _ (hu.install s slot w)
  | fread slot n => cases h; exact congrArg _ (hu.fread s slot n)
  | fwrite slot bytes => cases h; exact congrArg _ (hu.fwrite s slot bytes)
  | hfeed hid bytes => cases h; exact congrArg _ (hu.hfeed s hid bytes)
  | hdump hid => cases h; exact congrArg _ (hu.hdump s hid)
  | fdopen w => cases h; exact congrArg _ (hu.fdopen s w)
  | fdclose slot => cases h; exact congrArg _ (hu.fdclose s slot)
  | _ => cases hf

theorem setXstate_overlooked (x : XState) : Overlooked fun s => { s with xstate := x } :=
  ⟨fun _ => rfl, fun _ => rfl, fun _ _ => rfl, fun _ _ _ => rfl⟩

theorem setFlags_overlooked (f : Word) : Overlooked fun s => { s with flags := f } :=
  ⟨fun _ => rfl, fun _ => rfl, fun _ _ => rfl, fun _ _ _ => rfl⟩

theorem setPcMem_overlooked (p : Word) (m : Memory) : Overlooked fun s => { s with pc := p, mem := m } :=
  ⟨fun _ => rfl, fun _ => rfl, fun _ _ => rfl, fun _ _ _ => rfl⟩

/-- Settles O54: the file commands overlook `xstate`, and every other command named here reads registers or flags only. -/
theorem commandsIgnoreTheExecutionState : Obligations.CommandsIgnoreTheExecutionState := by
  intro i x s t hengine h
  cases hfile : isFileCommand i with
  | true => exact (setXstate_overlooked x).exec_file hfile h
  | false =>
    cases i with
    | init | exec | stateget | errget | retget => cases hengine
    | stdio | hnew | install | fread | fwrite | hfeed | hdump | fdopen | fdclose => cases hfile
    | ioplassign v =>
      cases h
      exact congrArg _ ((setXstate_overlooked x).ioplassign s (fun _ => rfl) (fun _ _ => rfl) v)
    | _ => cases h; rfl

/-- The flags word replaced before a command that is not about flags. -/
theorem exec_setFlags {i : Instr} (f : Word) {s t : State} (hflags : Instr.concernsFlags i = false)
    (h : exec i s = .next t) : exec i { s with flags := f } = .next { t with flags := f } := by
  cases hfile : isFileCommand i with
  | true => exact (setFlags_overlooked f).exec_file hfile h
  | false =>
    cases i with
    | stdio | hnew | install | fread | fwrite | hfeed | hdump | fdopen | fdclose => cases hfile
    | rgetU64 | rgetI64 | rgetF64 | rgetU32 | rgetI32 | rgetF32 | rgetU16 | rgetI16 | rgetU8 | rgetI8 | rgetU8H
    | rgetI8H | rsetU64 | rsetI64 | rsetF64 | rsetU32 | rsetI32 | rsetF32 | rsetU16 | rsetI16 | rsetU8 | rsetI8
    | rsetU8H | rsetI8H | stateget | errget | retget => cases h; rfl
    | _ => cases hflags

/-- Settles O55; that the flags stay is the case in which they are replaced by themselves. -/
theorem flagsAreInert : Obligations.FlagsAreInert := by
  intro i f s t hflags h
  refine ⟨?_, exec_setFlags f hflags h⟩
  have hself := (exec_setFlags s.flags hflags h).symm.trans h
  exact (congrArg State.flags (Host.Outcome.next.inj hself)).symm

/-- `pc` and `mem` replaced before a command that is neither `INIT` nor `EXEC`. -/
theorem exec_setPcMem {i : Instr} (p : Word) (m : Memory) {s t : State} (hinit : ∀ bytes, i ≠ .init bytes)
    (hexec : ∀ b, i ≠ .exec b) (h : exec i s = .next t) :
    exec i { s with pc := p, mem := m } = .next { t with pc := p, mem := m } := by
  cases hfile : isFileCommand i with
  | true => exact (setPcMem_overlooked p m).exec_file hfile h
  | false =>
    cases i with
    | init bytes => exact absurd rfl (hinit bytes)
    | exec b => exact absurd rfl (hexec b)
    | stdio | hnew | install | fread | fwrite | hfeed | hdump | fdopen | fdclose => cases hfile
    | ioplassign v =>
      cases h
      exact congrArg _ ((setPcMem_overlooked p m).ioplassign s (fun _ => rfl) (fun _ _ => rfl) v)
    | _ => cases h; rfl

/-- Settles O56, with the frame of `exec_cases`. -/
theorem hostReachesPcAndMemoryOnlyThroughInitAndExec : Obligations.HostReachesPcAndMemoryOnlyThroughInitAndExec := by
  intro i p m s t hinit hexec h
  obtain ⟨bytes, rfl, -⟩ | ⟨b, rfl, -⟩ | ⟨hf, -⟩ := exec_cases h
  · exact absurd rfl (hinit bytes)
  · exact absurd rfl (hexec b)
  · exact ⟨hf.pc, hf.mem, hf.maxMemory, hf.stackSize, hf.initFailed, exec_setPcMem p m hinit hexec h⟩

end Sys2Proof.Machine
end

section
/-! SUPPORT. What the host reaches at a point where commands of port HS fall into an `EXEC`, and who is served there. -/

namespace Sys2Proof.Machine

open Sys2Proof.Claims

/-! ### The reach of the host -/

/-- What may differ once commands of port HS have fallen into an `EXEC` (R71, R99): the handle buffers, which are only
extended, and the model's own queues, response and draw count. -/
structure HostReach (s t : State) : Prop where
  rest : t = { s with hp := t.hp, inputs := t.inputs, outputs := t.outputs, resp := t.resp, draws := t.draws }
  entries : t.hp.length = s.hp.length
  extended : ∀ (h : Nat) (hd : Handle), s.hp[h]? = some hd →
    ∃ more, t.hp[h]? = some { hd with buf := hd.buf ++ more }

/-- An act on the model's own fields alone. -/
theorem HostReach.of_same_pool {s t : State}
    (hrest : t = { s with hp := t.hp, inputs := t.inputs, outputs := t.outputs, resp := t.resp, draws := t.draws })
    (hhp : t.hp = s.hp) : HostReach s t where
  rest := hrest
  entries := by rw [hhp]
  extended h hd hs := ⟨[], by rw [hhp, List.append_nil]; exact hs⟩

theorem HostReach.refl (s : State) : HostReach s s := .of_same_pool rfl rfl

theorem HostReach.trans {s t u : State} (hst : HostReach s t) (htu : HostReach t u) : HostReach s u where
  rest := htu.rest.trans (by rw [hst.rest])
  entries := htu.entries.trans hst.entries
  extended h hd hs := by
    obtain ⟨more, ht⟩ := hst.extended h hd hs
    obtain ⟨more', hu⟩ := htu.extended h _ ht
    exact ⟨more ++ more', by rw [hu, List.append_assoc]⟩

theorem answer_hostReach (s : State) (r : Response) : HostReach s (s.answer r) := .of_same_pool rfl rfl

/-- Feeding a `Live` handle extends its buffer and leaves every other handle (R269). -/
theorem feed_hostReach {s : State} {hid : Nat} {hd : Handle} (hlive : s.hp[hid]? = some hd) (bytes : List Byte) :
    HostReach s (s.setHandle hid (feed bytes hd)) where
  rest := rfl
  entries := List.length_set
  extended h gd hs := by
    rw [State.setHandle_hp]
    by_cases hh : hid = h
    · subst hh
      rw [hlive] at hs
      cases hs
      exact ⟨bytes, List.getElem?_set_self (List.getElem?_eq_some_iff.mp hlive).1⟩
    · exact ⟨[], by rw [List.getElem?_set_ne hh, List.append_nil]; exact hs⟩

theorem performHs_hostReach (c : Command) (s : State) : HostReach s (performHs c s) := by
  obtain ⟨hid, bytes, hd, hlive, he⟩ | ⟨r, he⟩ := performHs_cases c s <;> rw [he]
  · exact (feed_hostReach hlive bytes).trans (answer_hostReach _ _)
  · exact answer_hostReach s r

theorem serveHs_hostReach (n : Nat) (s : State) : HostReach s (serveHs n s) := by
  induction n generalizing s with
  | zero => exact .refl s
  | succ n ih =>
    unfold serveHs
    split
    · rename_i c rest _
      have htake : HostReach s { s with inputs := rest } := .of_same_pool rfl rfl
      have hdeliver (u : State) : HostReach u u.answerHs := .of_same_pool rfl rfl
      exact htake.trans ((performHs_hostReach c _).trans ((hdeliver _).trans (ih _)))
    · exact .refl s

theorem hostPoint_hostReach (env : Env) (s : State) : HostReach s (hostPoint env s) :=
  have hdraw : HostReach s { s with draws := s.draws + 1 } := .of_same_pool rfl rfl
  hdraw.trans (serveHs_hostReach _ _)

@[simp] theorem hostPoint_mem (env : Env) (s : State) : (hostPoint env s).mem = s.mem := by
  rw [(hostPoint_hostReach env s).rest]

/-! ### Who is served, and how -/

theorem serveHs_of_noHsWaits (n : Nat) {s : State} (h : NoHsWaits s.inputs) : serveHs n s = s := by
  cases n with
  | zero => rfl
  | succ n => simp only [serveHs, nextHs_eq_none h]

theorem serveHs_succ (n : Nat) {s : State} {c : Command} {before after : List HostInput} (hb : OnlyHc before)
    (hi : s.inputs = before ++ .hs c :: after) :
    serveHs (n + 1) s = serveHs n (performHs c { s with inputs := before ++ after }).answerHs := by
  simp only [serveHs, hi, nextHs_front hb]

/-- On port HS `HFEED` and `HDUMP` mean what they mean on HC (R99). -/
theorem exec_eq_performHs {c : Command} {i : Instr} (s : State) (hc : decode c = .ok i)
    (hi : Instr.handleSide i = true) : exec i s = .next (performHs c s) := by
  cases i with
  | hfeed | hdump => simp only [performHs, hc]; rfl
  | _ => cases hi

/-- Every other command on port HS is rejected (R99). -/
theorem performHs_of_not_handleSide {c : Command} {i : Instr} (s : State) (hc : decode c = .ok i)
    (hi : Instr.handleSide i = false) : performHs c s = s.rejectCommand := by
  cases i with
  | hfeed | hdump => cases hi
  | _ => simp only [performHs, hc]

/-- An illegal word on port HS is rejected (R92). -/
theorem performHs_of_illegal {c : Command} {e : Reject} (s : State) (hc : decode c = .error e) :
    performHs c s = s.rejectCommand := by
  simp only [performHs, hc]

/-- Settles O43: the queue is served from its front, and what the single commands reach, a point reaches. -/
theorem hostReachesOnlyHandlesDuringExec : Obligations.HostReachesOnlyHandlesDuringExec := by
  refine ⟨fun _ _ => rfl, fun _ => rfl, fun n _ h => serveHs_of_noHsWaits n h, ?_, fun c s => ⟨?_, ?_⟩, ?_⟩
  · rintro n s t c before after hb hi rfl
    exact serveHs_succ n hb hi
  · exact fun i hc hi => exec_eq_performHs s hc hi
  · rintro (⟨i, hc, hi⟩ | ⟨e, hc⟩)
    · exact performHs_of_not_handleSide s hc hi
    · exact performHs_of_illegal s hc
  · rintro env s t rfl
    have hreach := hostPoint_hostReach env s
    exact ⟨hreach.rest, hreach.entries, hreach.extended⟩

end Sys2Proof.Machine
end

section
/-! SUPPORT. The memory image as the instruction unit uses it: the bound `max_memory`, and an access that leaves the
image. -/

namespace Sys2Proof.Machine

open Sys2Proof.Claims

/-! ### The bound of the image -/

/-- The image is canonical and within `max_memory` (R36, R61). -/
structure State.ImageBounded (s : State) : Prop where
  wf : s.mem.wf = true
  bound : s.mem.size ≤ s.maxMemory.toNat

/-- An act keeps `max_memory` and, with it, the image within its bound. -/
structure BoundKept (s t : State) : Prop where
  maxMemory : t.maxMemory = s.maxMemory
  image : s.ImageBounded → t.ImageBounded

/-- An act that touches neither the image nor its limit. -/
theorem BoundKept.of_same {s t : State} (hmem : t.mem = s.mem) (hmax : t.maxMemory = s.maxMemory) : BoundKept s t :=
  ⟨hmax, fun hs => ⟨hmem ▸ hs.wf, by rw [hmem, hmax]; exact hs.bound⟩⟩

theorem Frame.boundKept {s t : State} (h : Frame s t) : BoundKept s t := .of_same h.mem h.maxMemory

theorem BoundKept.trans {s t u : State} (hst : BoundKept s t) (htu : BoundKept t u) : BoundKept s u :=
  ⟨htu.maxMemory.trans hst.maxMemory, htu.image ∘ hst.image⟩

/-- No single act of a cycle breaks the bound: a write keeps `mem_size`, growing is guarded, shrinking lowers it. -/
theorem boundKept_accessClosed (env : Env) : AccessClosed env BoundKept where
  refl _ := .of_same rfl rfl
  trans := .trans
  draw _ := .of_same rfl rfl
  take _ _ _ _ := .of_same rfl rfl
  host c s := (performHs_frame c s).boundKept
  deliver _ := .of_same rfl rfl
  unit c s := (performIu_frame c s).boundKept
  setPc _ _ := .of_same rfl rfl
  write _ _ _ _ _ hw := ⟨rfl, fun hs => ⟨Memory.write_wf hs.wf hw, (Memory.write_size hw).trans_le hs.bound⟩⟩
  grow _ bytes hg := ⟨rfl, fun hs => ⟨Memory.grow_wf hs.wf bytes, of_decide_eq_true hg⟩⟩
  shrink _ size := ⟨rfl, fun hs => ⟨Memory.shrink_wf hs.wf size, (Nat.min_le_right size _).trans hs.bound⟩⟩

/-- Settles O38: what the single acts of a cycle keep, the cycle keeps. -/
theorem cycleKeepsTheImageInBounds : Obligations.CycleKeepsTheImageInBounds := by
  intro env s t out hcycle hwf hbound
  have hkept : BoundKept s t := by
    have := (boundKept_accessClosed env).cycle_rel s
    rwa [hcycle] at this
  have ht := hkept.image ⟨hwf, hbound⟩
  exact ⟨ht.wf, hkept.maxMemory ▸ ht.bound⟩

/-! ### An access of the instruction unit -/

section

variable {env : Env} {addr v : Word} {n : AccessWidth} {s : State}

theorem runUnit_memRead_some {x : Word} (k : Option Word → UnitProgram) (failed : Bool)
    (h : s.mem.read addr n = some x) :
    runUnit env (.memRead addr n k) failed s = runUnit env (k (some x)) failed (hostPoint env s) := by
  simp only [runUnit, hostPoint_mem, h]

theorem runUnit_memRead_none (k : Option Word → UnitProgram) (failed : Bool) (h : s.mem.read addr n = none) :
    runUnit env (.memRead addr n k) failed s = runUnit env (k none) true (hostPoint env s) := by
  simp only [runUnit, hostPoint_mem, h]

theorem runUnit_memWrite_some {m : Memory} (k : Bool → UnitProgram) (failed : Bool)
    (h : s.mem.write addr n v = some m) :
    runUnit env (.memWrite addr n v k) failed s = runUnit env (k true) failed ((hostPoint env s).setMem m) := by
  simp only [runUnit, hostPoint_mem, h]

theorem runUnit_memWrite_none (k : Bool → UnitProgram) (failed : Bool) (h : s.mem.write addr n v = none) :
    runUnit env (.memWrite addr n v k) failed s = runUnit env (k false) true (hostPoint env s) := by
  simp only [runUnit, hostPoint_mem, h]

end

/-- Once an access has failed no later one clears it: the outcome of the cycle is forced, whatever the unit does. -/
theorem runUnit_failed (env : Env) (p : UnitProgram) (s : State) :
    (runUnit env p true s).2 = .fault .invalidMemoryAccess := by
  induction p generalizing s with
  | done out => rfl
  | command c next ih => exact ih _ _
  | memRead addr n next ih =>
    cases hr : s.mem.read addr n with
    | some x => rw [runUnit_memRead_some next true hr]; exact ih _ _
    | none => rw [runUnit_memRead_none next true hr]; exact ih _ _
  | memWrite addr n v next ih =>
    cases hw : s.mem.write addr n v with
    | some m => rw [runUnit_memWrite_some next true hw]; exact ih _ _
    | none => rw [runUnit_memWrite_none next true hw]; exact ih _ _
  | readPc next ih => exact ih _ _
  | writePc v next ih => exact ih _
  | memGrow bytes next ih =>
    unfold runUnit
    dsimp only
    split <;> exact ih _ _
  | memShrink size next ih => exact ih _

/-- Settles O39: an access outside the image answers `none`, so the unit goes on with the failure recorded. -/
theorem failedAccessForcesTheFault : Obligations.FailedAccessForcesTheFault := by
  refine ⟨fun m addr v n h => ⟨Memory.read_outside h, Memory.write_outside v h⟩, ?_⟩
  intro env s failed addr v n k k' h
  have hread := runUnit_memRead_none (env := env) k failed (Memory.read_outside h)
  have hwrite := runUnit_memWrite_none (env := env) k' failed (Memory.write_outside v h)
  exact ⟨hostPoint_mem env s, hread, hwrite, hread ▸ runUnit_failed env _ _, hwrite ▸ runUnit_failed env _ _⟩

end Sys2Proof.Machine
end

section
/-! SUPPORT. An access that lies in the image, byte by byte. -/

namespace Sys2Proof.Machine

open Sys2Proof.Claims

/-! ### Little-endian bytes -/

theorem leValue_lt (bytes : List Byte) : leValue bytes < 256 ^ bytes.length := by
  induction bytes with
  | nil => exact Nat.one_pos
  | cons b rest ih =>
    have hb : b.toNat < 256 := b.isLt
    rw [leValue, List.length_cons, Nat.pow_succ]
    omega

/-- Digit `i` of a little-endian byte string is its byte `i`. -/
theorem leValue_digit (bytes : List Byte) (i : Nat) : leValue bytes / 256 ^ i % 256 = (bytes.getD i 0).toNat := by
  induction bytes generalizing i with
  | nil => simp [leValue]
  | cons b rest ih =>
    have hb : b.toNat < 256 := b.isLt
    cases i with
    | zero =>
      rw [leValue, List.getD_cons_zero]
      omega
    | succ i =>
      have hdrop : (b.toNat + 256 * leValue rest) / 256 = leValue rest := by omega
      rw [leValue, Nat.pow_succ', ← Nat.div_div_eq_div_mul, hdrop, ih, List.getD_cons_succ]

/-- Byte `i` of a word's little-endian bytes is its bits `8i+7:8i` (R63). -/
theorem leBytes_getD (v : Word) {n i : Nat} (hi : i < n) : (leBytes n v).getD i 0 = v.extractLsb' (8 * i) 8 := by
  induction n generalizing v i with
  | zero => omega
  | succ n ih =>
    cases i with
    | zero =>
      rw [leBytes, List.getD_cons_zero, Nat.mul_zero, BitVec.setWidth_eq_extractLsb' (by decide)]
    | succ i =>
      rw [leBytes, List.getD_cons_succ, ih (v >>> 8) (by omega)]
      ext j hj
      simp [Nat.mul_succ, Nat.add_comm, Nat.add_left_comm]

/-- An access is at most a word wide (R62). -/
theorem pow_accessBytes_le (n : AccessWidth) : 256 ^ accessBytes n ≤ 2 ^ 64 := by
  cases n <;> decide

/-! ### An access that lies in the image -/

/-- The image read back over a range that holds these bytes. -/
theorem bytesFrom_eq {m : Memory} {a : Nat} {bytes : List Byte}
    (h : ∀ i < bytes.length, m.byte (a + i) = bytes.getD i 0) : m.bytesFrom a bytes.length = bytes := by
  refine List.ext_getElem (bytesFrom_length m a _) fun i h1 h2 => ?_
  have hi := bytesFrom_getD m a bytes.length i h2
  rw [h i h2] at hi
  simpa [List.getD_eq_getElem?_getD, h1, h2] using hi

section

variable {addr v : Word} {n : AccessWidth}

/-- The word a read returns, as a number. -/
theorem Memory.read_toNat {m : Memory} {x : Word} (h : m.read addr n = some x) :
    x.toNat = leValue (m.bytesFrom addr.toNat (accessBytes n)) := by
  unfold Memory.read at h
  split at h
  · cases h
    refine Nat.mod_eq_of_lt (Nat.lt_of_lt_of_le (leValue_lt _) ?_)
    rw [bytesFrom_length]
    exact pow_accessBytes_le n
  · cases h

/-- The bits above the bytes read are 0 (R63). -/
theorem Memory.read_lt {m : Memory} {x : Word} (h : m.read addr n = some x) : x.toNat < 256 ^ accessBytes n := by
  have hlt := leValue_lt (m.bytesFrom addr.toNat (accessBytes n))
  rwa [bytesFrom_length, ← Memory.read_toNat h] at hlt

/-- Bits `8i+7:8i` of the word read are the byte at `addr + i` (R63). -/
theorem Memory.read_byte {m : Memory} {x : Word} (h : m.read addr n = some x) {i : Nat} (hi : i < accessBytes n) :
    x.extractLsb' (8 * i) 8 = m.byte (addr.toNat + i) := by
  refine BitVec.eq_of_toNat_eq ?_
  rw [BitVec.extractLsb'_toNat, Nat.shiftRight_eq_div_pow, Nat.pow_mul, Memory.read_toNat h]
  exact (leValue_digit _ i).trans (by rw [bytesFrom_getD _ _ _ _ hi])

/-- Byte `i` of the value stands at `addr + i` after a write (R63). -/
theorem Memory.write_byte_inside {m m' : Memory} (hm : m.wf = true) (h : m.write addr n v = some m') {i : Nat}
    (hi : i < accessBytes n) : m'.byte (addr.toNat + i) = v.extractLsb' (8 * i) 8 := by
  rw [Memory.write_byte hm h, if_pos (by omega), Nat.add_sub_cancel_left, leBytes_getD v hi]

/-- A write leaves every byte outside its range. -/
theorem Memory.write_byte_outside {m m' : Memory} (hm : m.wf = true) (h : m.write addr n v = some m') {a : Nat}
    (ha : a < addr.toNat ∨ addr.toNat + accessBytes n ≤ a) : m'.byte a = m.byte a := by
  rw [Memory.write_byte hm h, if_neg (by omega)]

/-- A read after a write of the same place returns the low bytes of the value. -/
theorem Memory.read_of_write {m m' : Memory} (hm : m.wf = true) (h : m.write addr n v = some m') :
    m'.read addr n = some (BitVec.ofNat 64 (v.toNat % 256 ^ accessBytes n)) := by
  have hinside : addr.toNat + accessBytes n ≤ m'.size := by
    rw [Memory.write_size h]
    exact (Memory.write_eq_some h).1
  have hbytes : m'.bytesFrom addr.toNat (accessBytes n) = leBytes (accessBytes n) v := by
    have hback := bytesFrom_eq (m := m') (a := addr.toNat) (bytes := leBytes (accessBytes n) v)
    rw [leBytes_length] at hback
    exact hback fun i hi => (Memory.write_byte_inside hm h hi).trans (leBytes_getD v hi).symm
  rw [Memory.read_inside hinside, hbytes, leValue_leBytes]

end

/-- Settles O40: inside the image both accesses happen, and the lemmas on `Memory.read` and `Memory.write` say how. -/
theorem memoryWriteThenRead : Obligations.MemoryWriteThenRead := by
  intro m addr v n hm hin
  constructor
  · have hread := Memory.read_inside hin
    refine ⟨_, hread, Memory.read_lt hread, fun i hi => Memory.read_byte hread hi, ?_⟩
    rintro env k failed s rfl
    exact runUnit_memRead_some k failed hread
  · have hwrite := Memory.write_inside v hin
    refine ⟨_, hwrite, Memory.write_size hwrite, Memory.write_wf hm hwrite,
      fun i hi => Memory.write_byte_inside hm hwrite hi, fun a ha => Memory.write_byte_outside hm hwrite ha,
      Memory.read_of_write hm hwrite, ?_⟩
    rintro env k failed s rfl
    exact runUnit_memWrite_some k failed hwrite

end Sys2Proof.Machine
end

section
/-! SUPPORT. The words the tables hold, written out once as a relation: the decoder accepts exactly its rows, and the
encoder writes them. -/

namespace Sys2Proof.Machine

open Sys2Proof.Claims

/-! ### The rows of the tables -/

/-- The fields of the legal command words and the command each names, one constructor per opcode of R87, with the operands
`wdata` and `payload` presented beside the word. -/
inductive TableRow (wdata : Word) (payload : List Byte) : BitVec 8 → BitVec 8 → BitVec 16 → Instr → Prop
  | rget (v : View) (reg : RegIdx) (hdom : v.isHigh = true → highReg reg = true) :
      TableRow wdata payload 0x10#8 (codeOfView v) (BitVec.ofNat 16 reg.val) (.rget v reg)
  | rset (v : View) (reg : RegIdx) (hdom : v.isHigh = true → highReg reg = true) :
      TableRow wdata payload 0x11#8 (codeOfView v) (BitVec.ofNat 16 reg.val) (.rset v reg wdata)
  | fget (f : Flag) : TableRow wdata payload 0x20#8 (idOfFlag f) 0#16 (.fget f)
  | fassign (f : Flag) : TableRow wdata payload 0x21#8 (idOfFlag f) 0#16 (.fassign f wdata)
  | ioplget : TableRow wdata payload 0x22#8 0#8 0#16 .ioplget
  | ioplassign : TableRow wdata payload 0x23#8 0#8 0#16 (.ioplassign wdata)
  | flagsget : TableRow wdata payload 0x24#8 0#8 0#16 .flagsget
  | flagsset : TableRow wdata payload 0x25#8 0#8 0#16 (.flagsset wdata)
  | cc (c : CondCode) : TableRow wdata payload 0x26#8 (idOfCond c) 0#16 (.cc c)
  | init : TableRow wdata payload 0x30#8 0#8 0#16 (.init payload)
  | exec : TableRow wdata payload 0x31#8 0#8 0#16 (.exec wdata)
  | stateget : TableRow wdata payload 0x32#8 0#8 0#16 .stateget
  | errget : TableRow wdata payload 0x33#8 0#8 0#16 .errget
  | retget : TableRow wdata payload 0x34#8 0#8 0#16 .retget
  | stdio : TableRow wdata payload 0x40#8 0#8 0#16 .stdio
  | hnew (caps : BitVec 5) : TableRow wdata payload 0x41#8 (caps.setWidth 8) 0#16 (.hnew caps)
  | install (slot : BitVec 16) : TableRow wdata payload 0x42#8 0#8 slot (.install slot wdata)
  | fread (slot : BitVec 16) : TableRow wdata payload 0x43#8 0#8 slot (.fread slot wdata)
  | fwrite (slot : BitVec 16) : TableRow wdata payload 0x44#8 0#8 slot (.fwrite slot payload)
  | hfeed (hid : BitVec 16) : TableRow wdata payload 0x45#8 0#8 hid (.hfeed hid payload)
  | hdump (hid : BitVec 16) : TableRow wdata payload 0x46#8 0#8 hid (.hdump hid)
  | fdopen : TableRow wdata payload 0x47#8 0#8 0#16 (.fdopen wdata)
  | fdclose (slot : BitVec 16) : TableRow wdata payload 0x48#8 0#8 slot (.fdclose slot)

theorem eq_ofNat_of_toNat {w n : Nat} {b : BitVec w} (h : b.toNat = n) : b = BitVec.ofNat w n := by
  simp [← h]

section

variable {wdata : Word} {payload : List Byte} {op sel : BitVec 8} {idx : BitVec 16} {i : Instr}

/-- A command of format `N` is read from a row with `sel` and `idx` 0. -/
theorem TableRow.of_formatN {n : Nat} {j : Instr} (hop : op.toNat = n) (h : formatN sel idx j = .ok i)
    (row : TableRow wdata payload (BitVec.ofNat 8 n) 0#8 0#16 j) : TableRow wdata payload op sel idx i := by
  obtain rfl := eq_ofNat_of_toNat hop
  obtain ⟨rfl, rfl, rfl⟩ := formatN_eq_ok.mp h
  exact row

/-- A command of format `S` or `H` is read from a row with `sel` 0. -/
theorem TableRow.of_formatIdx {n : Nat} {mk : BitVec 16 → Instr} (hop : op.toNat = n)
    (h : formatIdx sel idx mk = .ok i) (row : TableRow wdata payload (BitVec.ofNat 8 n) 0#8 idx (mk idx)) :
    TableRow wdata payload op sel idx i := by
  obtain rfl := eq_ofNat_of_toNat hop
  obtain ⟨rfl, rfl⟩ := formatIdx_eq_ok.mp h
  exact row

/-- What the opcode map reads stands in a row. -/
theorem tableRow_of_decodeFields (h : decodeFields op sel idx wdata payload = .ok i) :
    TableRow wdata payload op sel idx i := by
  unfold decodeFields at h
  split at h
  · next hop =>
      obtain rfl := eq_ofNat_of_toNat hop
      obtain ⟨v, reg, rfl, rfl, hdom, rfl⟩ := formatR_eq_ok.mp h
      exact .rget v reg hdom
  · next hop =>
      obtain rfl := eq_ofNat_of_toNat hop
      obtain ⟨v, reg, rfl, rfl, hdom, rfl⟩ := formatR_eq_ok.mp h
      exact .rset v reg hdom
  · next hop =>
      obtain rfl := eq_ofNat_of_toNat hop
      obtain ⟨f, rfl, rfl, rfl⟩ := formatFlag_eq_ok.mp h
      exact .fget f
  · next hop =>
      obtain rfl := eq_ofNat_of_toNat hop
      obtain ⟨f, rfl, rfl, rfl⟩ := formatFlag_eq_ok.mp h
      exact .fassign f
  · next hop => exact .of_formatN hop h .ioplget
  · next hop => exact .of_formatN hop h .ioplassign
  · next hop => exact .of_formatN hop h .flagsget
  · next hop => exact .of_formatN hop h .flagsset
  · next hop =>
      obtain rfl := eq_ofNat_of_toNat hop
      obtain ⟨c, rfl, rfl, rfl⟩ := formatCond_eq_ok.mp h
      exact .cc c
  · next hop => exact .of_formatN hop h .init
  · next hop => exact .of_formatN hop h .exec
  · next hop => exact .of_formatN hop h .stateget
  · next hop => exact .of_formatN hop h .errget
  · next hop => exact .of_formatN hop h .retget
  · next hop => exact .of_formatN hop h .stdio
  · next hop =>
      obtain rfl := eq_ofNat_of_toNat hop
      obtain ⟨caps, rfl, rfl, rfl⟩ := formatK_eq_ok.mp h
      exact .hnew caps
  · next hop => exact .of_formatIdx hop h (.install idx)
  · next hop => exact .of_formatIdx hop h (.fread idx)
  · next hop => exact .of_formatIdx hop h (.fwrite idx)
  · next hop => exact .of_formatIdx hop h (.hfeed idx)
  · next hop => exact .of_formatIdx hop h (.hdump idx)
  · next hop => exact .of_formatN hop h .fdopen
  · next hop => exact .of_formatIdx hop h (.fdclose idx)
  · cases h

/-- The opcode map reads every row as its command. -/
theorem TableRow.decodeFields_eq (h : TableRow wdata payload op sel idx i) :
    decodeFields op sel idx wdata payload = .ok i := by
  cases h with
  | rget v reg hdom => exact formatR_eq_ok.mpr ⟨v, reg, rfl, rfl, hdom, rfl⟩
  | rset v reg hdom =>
    exact formatR_eq_ok (mk := fun v reg => .rset v reg wdata).mpr ⟨v, reg, rfl, rfl, hdom, rfl⟩
  | fget f | fassign f => exact formatFlag_eq_ok.mpr ⟨f, rfl, rfl, rfl⟩
  | cc c => exact formatCond_eq_ok.mpr ⟨c, rfl, rfl, rfl⟩
  | hnew caps => exact formatK_eq_ok.mpr ⟨caps, rfl, rfl, rfl⟩
  | _ => rfl

end

/-- The decoder accepts exactly the rows of the tables. -/
theorem decode_eq_ok_iff {c : Command} {i : Instr} :
    decode c = .ok i ↔ TableRow c.wdata c.payload (opField c.cmd) (selField c.cmd) (idxField c.cmd) i :=
  ⟨tableRow_of_decodeFields, TableRow.decodeFields_eq⟩

/-! ### The encoder -/

/-- The command with the fields of a row is read as the row's command. -/
theorem TableRow.decode_packFields {wdata : Word} {payload : List Byte} {op sel : BitVec 8} {idx : BitVec 16} {i : Instr}
    (h : TableRow wdata payload op sel idx i) :
    decode { cmd := packFields op sel idx, wdata := wdata, payload := payload } = .ok i := by
  rw [decode_of_fields (opField_packFields ..) (selField_packFields ..) (idxField_packFields ..)]
  exact h.decodeFields_eq

/-- Settles O1: the encoder writes a row of the tables for every well-formed command. -/
theorem decodeOfEncodeIsTheInstruction : Obligations.DecodeOfEncodeIsTheInstruction := by
  intro i hwf
  cases i with
  | rgetU64 reg | rgetI64 reg | rgetF64 reg | rgetU32 reg | rgetI32 reg | rgetF32 reg | rgetU16 reg | rgetI16 reg
  | rgetU8 reg | rgetI8 reg => exact (TableRow.rget _ reg (by nofun)).decode_packFields
  | rgetU8H reg | rgetI8H reg => exact (TableRow.rget _ reg fun _ => hwf).decode_packFields
  | rsetU64 reg value | rsetI64 reg value | rsetF64 reg value | rsetU32 reg value | rsetI32 reg value
  | rsetF32 reg value | rsetU16 reg value | rsetI16 reg value | rsetU8 reg value | rsetI8 reg value =>
    exact (TableRow.rset _ reg (by nofun)).decode_packFields
  | rsetU8H reg value | rsetI8H reg value => exact (TableRow.rset _ reg fun _ => hwf).decode_packFields
  | fgetCF | fgetPF | fgetAF | fgetZF | fgetSF | fgetTF | fgetIF | fgetDF | fgetOF | fgetNT | fgetRF | fgetVM | fgetAC
  | fgetVIF | fgetVIP | fgetID | fgetCT => exact (TableRow.fget _).decode_packFields
  | fassignCF | fassignPF | fassignAF | fassignZF | fassignSF | fassignTF | fassignIF | fassignDF | fassignOF
  | fassignNT | fassignRF | fassignVM | fassignAC | fassignVIF | fassignVIP | fassignID | fassignCT =>
    exact (TableRow.fassign _).decode_packFields
  | ccB | ccBE | ccA | ccAE | ccL | ccLE | ccG | ccGE => exact (TableRow.cc _).decode_packFields
  | ioplget => exact TableRow.ioplget.decode_packFields
  | ioplassign value => exact TableRow.ioplassign.decode_packFields
  | flagsget => exact TableRow.flagsget.decode_packFields
  | flagsset value => exact TableRow.flagsset.decode_packFields
  | init bytes => exact TableRow.init.decode_packFields
  | exec budget => exact TableRow.exec.decode_packFields
  | stateget => exact TableRow.stateget.decode_packFields
  | errget => exact TableRow.errget.decode_packFields
  | retget => exact TableRow.retget.decode_packFields
  | stdio => exact TableRow.stdio.decode_packFields
  | hnew caps => exact (TableRow.hnew caps).decode_packFields
  | install slot handle => exact (TableRow.install slot).decode_packFields
  | fread slot count => exact (TableRow.fread slot).decode_packFields
  | fwrite slot bytes => exact (TableRow.fwrite slot).decode_packFields
  | hfeed hid bytes => exact (TableRow.hfeed hid).decode_packFields
  | hdump hid => exact (TableRow.hdump hid).decode_packFields
  | fdopen handle => exact TableRow.fdopen.decode_packFields
  | fdclose slot => exact (TableRow.fdclose slot).decode_packFields

/-- A row's command is well formed and is encoded with the row's fields. -/
theorem TableRow.wellFormed_encode {wdata : Word} {payload : List Byte} {op sel : BitVec 8} {idx : BitVec 16} {i : Instr}
    (h : TableRow wdata payload op sel idx i) : i.wellFormed = true ∧ (encode i).cmd = packFields op sel idx := by
  cases h with
  | rget v reg hdom =>
    cases v with
    | u8h | i8h => exact ⟨hdom rfl, rfl⟩
    | _ => exact ⟨rfl, rfl⟩
  | rset v reg hdom =>
    cases v with
    | u8h | i8h => exact ⟨hdom rfl, rfl⟩
    | _ => exact ⟨rfl, rfl⟩
  | fget f | fassign f => cases f <;> exact ⟨rfl, rfl⟩
  | cc c => cases c <;> exact ⟨rfl, rfl⟩
  | _ => exact ⟨rfl, rfl⟩

/-- Settles O2: what was read stands in a row, and the fields of the word make up the word. -/
theorem encodeOfDecodeIsTheWord : Obligations.EncodeOfDecodeIsTheWord := by
  intro c i h
  obtain ⟨hwf, hcmd⟩ := (decode_eq_ok_iff.mp h).wellFormed_encode
  exact ⟨hwf, hcmd.trans (packFields_fields c.cmd)⟩

/-! ### The legal words -/

/-- The codes of the views that exist for every register (R88). -/
theorem viewOfCode_low_iff (sel : BitVec 8) : (viewOfCode sel).any (!·.isHigh) = true ↔
    sel.toNat ∈ [0x00, 0x01, 0x02, 0x10, 0x11, 0x12, 0x20, 0x21, 0x30, 0x31] := by
  revert sel; decide

/-- The codes of the high-byte views (R88). -/
theorem viewOfCode_high_iff (sel : BitVec 8) : (viewOfCode sel).any View.isHigh = true ↔
    sel.toNat = 0x40 ∨ sel.toNat = 0x41 := by
  revert sel; decide

theorem flagOfId_isSome_iff (sel : BitVec 8) : (flagOfId sel).isSome = true ↔ sel.toNat ≤ 16 := by
  revert sel; decide

theorem condOfId_isSome_iff (sel : BitVec 8) : (condOfId sel).isSome = true ↔ sel.toNat ≤ 7 := by
  revert sel; decide

theorem ofNat_reg_toNat (reg : RegIdx) : (BitVec.ofNat 16 reg.val).toNat = reg.val :=
  Nat.mod_eq_of_lt (Nat.lt_trans reg.isLt (by decide))

theorem highReg_iff (reg : RegIdx) : highReg reg = true ↔ reg.val < 4 := decide_eq_true_iff

/-- The words of format `R` for a view and a register of its domain are legal. -/
theorem legalWord_view {op : Nat} (hop : op = 0x10 ∨ op = 0x11) (v : View) (reg : RegIdx)
    (hdom : v.isHigh = true → highReg reg = true) :
    LegalWord op (codeOfView v).toNat (BitVec.ofNat 16 reg.val).toNat := by
  rw [ofNat_reg_toNat]
  cases hv : v.isHigh with
  | false => exact .inl ⟨hop, (viewOfCode_low_iff _).mp (by simp [hv]), reg.isLt⟩
  | true => exact .inr (.inl ⟨hop, (viewOfCode_high_iff _).mp (by simp [hv]), (highReg_iff reg).mp (hdom hv)⟩)

/-- A selector and an index that are legal in format `R`: a view's code and a register of its domain (R83, R88). -/
def ViewFields (sel : BitVec 8) (idx : BitVec 16) : Prop :=
  (sel.toNat ∈ [0x00, 0x01, 0x02, 0x10, 0x11, 0x12, 0x20, 0x21, 0x30, 0x31] ∧ idx.toNat < 16) ∨
  ((sel.toNat = 0x40 ∨ sel.toNat = 0x41) ∧ idx.toNat < 4)

theorem ViewFields.exists_view {sel : BitVec 8} {idx : BitVec 16} (h : ViewFields sel idx) :
    ∃ (v : View) (reg : RegIdx), (v.isHigh = true → highReg reg = true) ∧ codeOfView v = sel ∧
      BitVec.ofNat 16 reg.val = idx := by
  obtain ⟨hsel, hidx⟩ | ⟨hsel, hidx⟩ := h
  · obtain ⟨v, hv, hlow⟩ := Option.any_eq_true _ _ |>.mp ((viewOfCode_low_iff sel).mpr hsel)
    exact ⟨v, ⟨idx.toNat, hidx⟩, by simp_all, codeOfView_of_viewOfCode hv, by simp⟩
  · obtain ⟨v, hv, -⟩ := Option.any_eq_true _ _ |>.mp ((viewOfCode_high_iff sel).mpr hsel)
    exact ⟨v, ⟨idx.toNat, by omega⟩, fun _ => (highReg_iff _).mpr hidx, codeOfView_of_viewOfCode hv, by simp⟩

section

variable {wdata : Word} {payload : List Byte} {op sel : BitVec 8} {idx : BitVec 16}

/-- The fields of a row are legal. -/
theorem TableRow.legalWord {i : Instr} (h : TableRow wdata payload op sel idx i) :
    LegalWord op.toNat sel.toNat idx.toNat := by
  cases h with
  | rget v reg hdom => exact legalWord_view (.inl rfl) v reg hdom
  | rset v reg hdom => exact legalWord_view (.inr rfl) v reg hdom
  | fget f =>
    have hid := (flagOfId_isSome_iff (idOfFlag f)).mp (by simp)
    simp [LegalWord, hid]
  | fassign f =>
    have hid := (flagOfId_isSome_iff (idOfFlag f)).mp (by simp)
    simp [LegalWord, hid]
  | cc c =>
    have hid := (condOfId_isSome_iff (idOfCond c)).mp (by simp)
    simp [LegalWord, hid]
  | hnew caps =>
    have hcaps : (caps.setWidth 8).toNat < 32 := by
      rw [BitVec.toNat_setWidth]
      omega
    exact .inr (.inr (.inr (.inr (.inr (.inl ⟨rfl, hcaps, rfl⟩)))))
  | _ => simp [LegalWord]

/-- Both register opcodes have a row for every view and register of its domain. -/
theorem ViewFields.exists_tableRow (hf : ViewFields sel idx) (hop : op.toNat = 0x10 ∨ op.toNat = 0x11) :
    ∃ i, TableRow wdata payload op sel idx i := by
  obtain ⟨v, reg, hdom, rfl, rfl⟩ := hf.exists_view
  obtain hop | hop := hop <;> obtain rfl := eq_ofNat_of_toNat hop
  · exact ⟨_, .rget v reg hdom⟩
  · exact ⟨_, .rset v reg hdom⟩

/-- Legal fields stand in a row. -/
theorem exists_tableRow_of_legalWord (h : LegalWord op.toNat sel.toNat idx.toNat) :
    ∃ i, TableRow wdata payload op sel idx i := by
  obtain ⟨hop, hsel, hidx⟩ | ⟨hop, hsel, hidx⟩ | ⟨hop, hsel, hidx⟩ | ⟨hop, hsel, hidx⟩ | ⟨hop, hsel, hidx⟩ |
    ⟨hop, hsel, hidx⟩ | ⟨hop, hsel⟩ := h
  · exact ViewFields.exists_tableRow (.inl ⟨hsel, hidx⟩) hop
  · exact ViewFields.exists_tableRow (.inr ⟨hsel, hidx⟩) hop
  · obtain ⟨f, hf⟩ := Option.isSome_iff_exists.mp ((flagOfId_isSome_iff sel).mpr hsel)
    obtain rfl := idOfFlag_of_flagOfId hf
    obtain rfl := eq_ofNat_of_toNat hidx
    obtain hop | hop := hop <;> obtain rfl := eq_ofNat_of_toNat hop
    · exact ⟨_, .fget f⟩
    · exact ⟨_, .fassign f⟩
  · obtain ⟨c, hc⟩ := Option.isSome_iff_exists.mp ((condOfId_isSome_iff sel).mpr hsel)
    obtain rfl := idOfCond_of_condOfId hc
    obtain rfl := eq_ofNat_of_toNat hidx
    obtain rfl := eq_ofNat_of_toNat hop
    exact ⟨_, .cc c⟩
  · obtain rfl := eq_ofNat_of_toNat hsel
    obtain rfl := eq_ofNat_of_toNat hidx
    simp only [List.mem_cons, List.not_mem_nil, or_false] at hop
    obtain hop | hop | hop | hop | hop | hop | hop | hop | hop | hop | hop := hop <;>
      obtain rfl := eq_ofNat_of_toNat hop
    exacts [⟨_, .ioplget⟩, ⟨_, .ioplassign⟩, ⟨_, .flagsget⟩, ⟨_, .flagsset⟩, ⟨_, .init⟩, ⟨_, .exec⟩, ⟨_, .stateget⟩,
      ⟨_, .errget⟩, ⟨_, .retget⟩, ⟨_, .stdio⟩, ⟨_, .fdopen⟩]
  · have hzero : sel.extractLsb' 5 3 = 0 := by
      apply BitVec.eq_of_toNat_eq
      rw [BitVec.extractLsb'_toNat, Nat.shiftRight_eq_div_pow, Nat.div_eq_of_lt hsel]
      rfl
    have hcaps := capabilityBits sel hzero
    obtain rfl := eq_ofNat_of_toNat hidx
    obtain rfl := eq_ofNat_of_toNat hop
    have hrow := TableRow.hnew (wdata := wdata) (payload := payload) (sel.extractLsb' 0 5)
    exact ⟨_, hcaps ▸ hrow⟩
  · obtain rfl := eq_ofNat_of_toNat hsel
    simp only [List.mem_cons, List.not_mem_nil, or_false] at hop
    obtain hop | hop | hop | hop | hop | hop := hop <;> obtain rfl := eq_ofNat_of_toNat hop
    exacts [⟨_, .install _⟩, ⟨_, .fread _⟩, ⟨_, .fwrite _⟩, ⟨_, .hfeed _⟩, ⟨_, .hdump _⟩, ⟨_, .fdclose _⟩]

end

/-- Settles O3: the rows of the tables are the legal words. -/
theorem legalWordsAreExactlyTheTables : Obligations.LegalWordsAreExactlyTheTables := by
  intro c
  have hop : (opField c.cmd).toNat = c.cmd.toNat / 2 ^ 24 := by
    rw [opField_toNat]
    have := c.cmd.isLt
    omega
  rw [← hop, ← selField_toNat, ← idxField_toNat]
  constructor
  · rintro ⟨i, h⟩
    exact (decode_eq_ok_iff.mp h).legalWord
  · intro h
    obtain ⟨i, hrow⟩ := exists_tableRow_of_legalWord h
    exact ⟨i, decode_eq_ok_iff.mpr hrow⟩

end Sys2Proof.Machine
end

section
/-! SUPPORT. The `INIT` operand block: when it is malformed, and that what is laid out as R96 says reads back. -/

namespace Sys2Proof.Machine

open Sys2Proof.Claims

/-! ### A malformed block -/

/-- One argument record: it must lie in the payload that is left (R96). -/
theorem argRecords_succ (argc : Nat) (p : List Byte) :
    argRecords (argc + 1) p =
      if 4 ≤ p.length ∧ 4 + leValue (p.take 4) ≤ p.length then
        (argRecords argc (p.drop (4 + leValue (p.take 4)))).map fun r =>
          ((p.drop 4).take (leValue (p.take 4)) :: r.1, r.2)
      else none := by
  rw [argRecords, List.length_drop, List.drop_drop]
  by_cases hlen : p.length < 4
  · rw [if_pos hlen, if_neg (by omega)]
  by_cases hrec : p.length - 4 < leValue (p.take 4)
  · rw [if_neg hlen, if_pos hrec, if_neg (by omega)]
  · rw [if_neg hlen, if_neg hrec, if_pos (by omega)]
    cases argRecords argc (p.drop (4 + leValue (p.take 4))) <;> rfl

/-- The records read fail exactly when one runs past the end. -/
theorem argRecords_eq_none_iff (argc : Nat) (p : List Byte) : argRecords argc p = none ↔ ¬ RecordsFit argc p := by
  induction argc generalizing p with
  | zero => simp [argRecords, RecordsFit]
  | succ argc ih =>
    rw [argRecords_succ, RecordsFit]
    by_cases hfit : 4 ≤ p.length ∧ 4 + leValue (p.take 4) ≤ p.length
    · rw [if_pos hfit, Option.map_eq_none_iff, ih]
      simp [hfit]
    · rw [if_neg hfit]
      simp only [true_iff]
      exact fun h => hfit ⟨h.1, h.2.1⟩

/-- A presence mask with a bit above bit 3 (R96). -/
theorem presence_high_iff (pm : Byte) : pm.extractLsb' 4 4 ≠ 0 ↔ 16 ≤ pm.toNat := by
  revert pm; decide

/-- A presence mask without bit 3, that is, without arguments (R96). -/
theorem presence_args_iff (pm : Byte) : pm.getLsbD 3 = false ↔ pm.toNat / 8 % 2 = 0 := by
  revert pm; decide

/-- The checks of the operand block, and what it holds when it passes them (R96). -/
theorem initOperands_eq (p : List Byte) :
    initOperands p =
      if p.length < 29 ∨ 16 ≤ (p.headD 0).toNat ∨
        ((p.headD 0).toNat / 8 % 2 = 0 ∧ leValue ((p.drop 25).take 4) ≠ 0) then none
      else (argRecords (leValue ((p.drop 25).take 4)) (p.drop 29)).map fun r =>
        { maxMemory := limitField ((p.headD 0).getLsbD 0) p 1
          stackSize := limitField ((p.headD 0).getLsbD 1) p 9
          maxFiles := limitField ((p.headD 0).getLsbD 2) p 17
          args := if (p.headD 0).getLsbD 3 then some r.1 else none
          exe := r.2 } := by
  simp only [initOperands, presence_high_iff, presence_args_iff]
  by_cases hlen : p.length < 29
  · rw [if_pos hlen, if_pos (.inl hlen)]
  by_cases hhigh : 16 ≤ (p.headD 0).toNat
  · rw [if_neg hlen, if_pos hhigh, if_pos (.inr (.inl hhigh))]
  by_cases hargs : (p.headD 0).toNat / 8 % 2 = 0 ∧ leValue ((p.drop 25).take 4) ≠ 0
  · rw [if_neg hlen, if_neg hhigh, if_pos hargs, if_pos (.inr (.inr hargs))]
  · rw [if_neg hlen, if_neg hhigh, if_neg hargs, if_neg (by simp only [hlen, hhigh, hargs, or_self, not_false_eq_true])]
    cases argRecords (leValue ((p.drop 25).take 4)) (p.drop 29) <;> rfl

/-- Settles O7: the three checks of `initOperands`, then the records. -/
theorem initPayloadMalformedExactlyWhen : Obligations.InitPayloadMalformedExactlyWhen := by
  refine ⟨fun p => ?_, fun p s hp => ?_⟩
  · rw [initOperands_eq]
    split
    · next hbad => exact iff_of_true rfl (by tauto)
    · next hgood =>
        rw [Option.map_eq_none_iff, argRecords_eq_none_iff]
        tauto
  · show Host.Outcome.next (initIn Config.env p s) = _
    simp only [initIn, hp]
    rfl

/-! ### A block laid out as R96 says -/

theorem leNumber_length (n v : Nat) : (leNumber n v).length = n := by
  induction n generalizing v with
  | zero => rfl
  | succ n ih => simp [leNumber, ih]

/-- A little-endian number read back, modulo what its bytes hold. -/
theorem leValue_leNumber (n v : Nat) : leValue (leNumber n v) = v % 256 ^ n := by
  induction n generalizing v with
  | zero => simp [leNumber, leValue, Nat.mod_one]
  | succ n ih =>
    have hbyte : (BitVec.ofNat 8 v).toNat = v % 256 := BitVec.toNat_ofNat ..
    rw [leNumber, leValue, ih, hbyte, Nat.pow_succ', Nat.mod_mul]

theorem leValue_leNumber_word (w : Word) : leValue (leNumber 8 w.toNat) = w.toNat := by
  rw [leValue_leNumber]
  exact Nat.mod_eq_of_lt w.isLt

/-- The first argument record is read back, and the rest is read behind it (R96). -/
theorem argRecords_argRecord (argc : Nat) {arg : List Byte} (harg : arg.length < 2 ^ 32) (p : List Byte) :
    argRecords (argc + 1) (argRecord arg ++ p) = (argRecords argc p).map fun r => (arg :: r.1, r.2) := by
  have hnum : (leNumber 4 arg.length).length = 4 := leNumber_length ..
  have htake : (argRecord arg ++ p).take 4 = leNumber 4 arg.length := by
    rw [argRecord, List.append_assoc, List.take_left' hnum]
  have hdrop : (argRecord arg ++ p).drop 4 = arg ++ p := by
    rw [argRecord, List.append_assoc, List.drop_left' hnum]
  have hval : leValue (leNumber 4 arg.length) = arg.length := by
    rw [leValue_leNumber]
    exact Nat.mod_eq_of_lt harg
  have hlen : (argRecord arg ++ p).length = 4 + (arg.length + p.length) := by
    simp [argRecord, hnum]
  rw [argRecords_succ, htake, hval, if_pos (by omega), ← List.drop_drop, hdrop, List.take_left, List.drop_left]

/-- Argument records of lengths that fit their fields are read back, and what follows them is left (R96). -/
theorem argRecords_flatMap {args : List (List Byte)} (h : ∀ arg ∈ args, arg.length < 2 ^ 32) (exe : List Byte) :
    argRecords args.length (args.flatMap argRecord ++ exe) = some (args, exe) := by
  induction args with
  | nil => rfl
  | cons arg args ih =>
    rw [List.length_cons, List.flatMap_cons, List.append_assoc, argRecords_argRecord _ (h arg List.mem_cons_self),
      ih fun a ha => h a (List.mem_cons_of_mem _ ha)]
    rfl

/-- A field of a byte string at an offset, and what follows it. -/
theorem drop_field {p field rest : List Byte} {offset n : Nat} (h : p.drop offset = field ++ rest)
    (hn : field.length = n) : (p.drop offset).take n = field ∧ p.drop (offset + n) = rest := by
  rw [← List.drop_drop, h]
  exact ⟨List.take_left' hn, List.drop_left' hn⟩

/-- The presence mask of operands (R96). -/
def presenceMask (ops : InitOperands) : Byte :=
  (BitVec.ofBool ops.args.isSome ++ BitVec.ofBool ops.maxFiles.isSome ++ BitVec.ofBool ops.stackSize.isSome ++
    BitVec.ofBool ops.maxMemory.isSome : BitVec 4).setWidth 8

/-- Bits 3 to 0 say which operands are present, and bits 7 to 4 are 0 (R96). -/
theorem presenceMask_bits (ops : InitOperands) :
    (presenceMask ops).toNat < 16 ∧ (presenceMask ops).getLsbD 3 = ops.args.isSome ∧
      (presenceMask ops).getLsbD 2 = ops.maxFiles.isSome ∧ (presenceMask ops).getLsbD 1 = ops.stackSize.isSome ∧
      (presenceMask ops).getLsbD 0 = ops.maxMemory.isSome := by
  unfold presenceMask
  generalize ops.args.isSome = a, ops.maxFiles.isSome = f, ops.stackSize.isSome = k, ops.maxMemory.isSome = m
  revert a f k m
  decide

theorem initPayload_eq (ops : InitOperands) :
    initPayload ops = presenceMask ops ::
      (leNumber 8 (ops.maxMemory.getD 0).toNat ++ (leNumber 8 (ops.stackSize.getD 0).toNat ++
        (leNumber 8 (ops.maxFiles.getD 0).toNat ++ (leNumber 4 (ops.args.getD []).length ++
          ((ops.args.getD []).flatMap argRecord ++ ops.exe))))) := by
  simp [initPayload, presenceMask, List.append_assoc]

/-- The fields of the payload, each at its offset (R96). -/
structure PayloadFields (ops : InitOperands) (p : List Byte) : Prop where
  length : 29 ≤ p.length
  presence : p.headD 0 = presenceMask ops
  maxMemory : (p.drop 1).take 8 = leNumber 8 (ops.maxMemory.getD 0).toNat
  stackSize : (p.drop 9).take 8 = leNumber 8 (ops.stackSize.getD 0).toNat
  maxFiles : (p.drop 17).take 8 = leNumber 8 (ops.maxFiles.getD 0).toNat
  argc : (p.drop 25).take 4 = leNumber 4 (ops.args.getD []).length
  records : p.drop 29 = (ops.args.getD []).flatMap argRecord ++ ops.exe

theorem initPayload_fields (ops : InitOperands) : PayloadFields ops (initPayload ops) := by
  have hall : (initPayload ops).drop 1 = _ := congrArg (List.drop 1) (initPayload_eq ops)
  obtain ⟨hmm, hrest⟩ := drop_field hall (leNumber_length ..)
  obtain ⟨hss, hrest⟩ := drop_field hrest (leNumber_length ..)
  obtain ⟨hmf, hrest⟩ := drop_field hrest (leNumber_length ..)
  obtain ⟨hargc, hrest⟩ := drop_field hrest (leNumber_length ..)
  refine ⟨?_, by rw [initPayload_eq]; rfl, hmm, hss, hmf, hargc, hrest⟩
  simp only [initPayload_eq, List.length_cons, List.length_append, leNumber_length]
  omega

/-- A limit's field reads as the limit, or as absent (R96). -/
theorem limitField_eq {limit : Option Word} {p : List Byte} {offset : Nat}
    (h : (p.drop offset).take 8 = leNumber 8 (limit.getD 0).toNat) : limitField limit.isSome p offset = limit := by
  cases limit with
  | none => rfl
  | some w =>
    rw [limitField, h, leValue_leNumber_word]
    simp

/-- Settles O6: each field stands at its offset, and the records are read back one by one. -/
theorem initPayloadRoundTrip : Obligations.InitPayloadRoundTrip := by
  intro ops hargc hargs
  have hf := initPayload_fields ops
  have hcount : leValue (leNumber 4 (ops.args.getD []).length) = (ops.args.getD []).length := by
    rw [leValue_leNumber]
    exact Nat.mod_eq_of_lt hargc
  obtain ⟨hhigh, hbargs, hbfiles, hbstack, hbmem⟩ := presenceMask_bits ops
  have hpasses : ¬((initPayload ops).length < 29 ∨ 16 ≤ (presenceMask ops).toNat ∨
      ((presenceMask ops).toNat / 8 % 2 = 0 ∧ (ops.args.getD []).length ≠ 0)) := by
    rw [← presence_args_iff, hbargs]
    rintro (hshort | hmask | ⟨habsent, hcounted⟩)
    · exact absurd hf.length (by omega)
    · omega
    · have hnone := Option.isNone_iff_eq_none.mp (Option.isSome_eq_false_iff.mp habsent)
      exact hcounted (by rw [hnone]; rfl)
  have hpresent : (if ops.args.isSome then some (ops.args.getD []) else none) = ops.args := by
    cases ops.args <;> rfl
  rw [initOperands_eq, hf.presence, hf.argc, hf.records, hcount, if_neg hpasses, argRecords_flatMap hargs]
  simp only [Option.map_some, hbargs, hbfiles, hbstack, hbmem, limitField_eq hf.maxMemory, limitField_eq hf.stackSize,
    limitField_eq hf.maxFiles, hpresent]

end Sys2Proof.Machine
end

section
/-! SUPPORT. A command that answers an error changes nothing, but for the latch of a failed `INIT`. -/

namespace Sys2Proof.Machine

open Sys2Proof.Claims

/-- A command other than `INIT` answers `OK`, or another status than `InitError` and then it only answers (R86). -/
def OkOrUnchanged (s t : State) : Prop :=
  t.resp.status = .ok ∨ (t.resp.status ≠ .initError ∧ t = s.answer t.resp)

theorem errorResponse_okOrUnchanged {st : Status} (s : State) (h : st ≠ .initError) :
    OkOrUnchanged s (s.answer (errorResponse st)) := .inr ⟨h, rfl⟩

theorem ioplassign_okOrUnchanged (w : Word) (s : State) : OkOrUnchanged s (ioplassign w s) := by
  unfold ioplassign
  split
  · exact .inr ⟨nofun, rfl⟩
  · exact .inl rfl

theorem stdio_okOrUnchanged (s : State) : OkOrUnchanged s (stdio s) := by
  unfold stdio stdioIn
  split
  · exact errorResponse_okOrUnchanged s nofun
  · split
    · exact errorResponse_okOrUnchanged s nofun
    · split
      · exact errorResponse_okOrUnchanged s nofun
      · split
        · exact errorResponse_okOrUnchanged s nofun
        · exact .inl rfl

theorem hnew_okOrUnchanged (caps : BitVec 5) (s : State) : OkOrUnchanged s (hnew caps s) := by
  unfold hnew hnewIn
  split
  · exact errorResponse_okOrUnchanged s nofun
  · exact .inl rfl

theorem install_okOrUnchanged (slot : BitVec 16) (w : Word) (s : State) : OkOrUnchanged s (install slot w s) := by
  unfold install
  split
  · exact errorResponse_okOrUnchanged s nofun
  · split
    · exact errorResponse_okOrUnchanged s nofun
    · exact .inl rfl

theorem fread_okOrUnchanged (slot : BitVec 16) (n : Word) (s : State) : OkOrUnchanged s (fread slot n s) := by
  unfold fread
  split
  · exact errorResponse_okOrUnchanged s nofun
  · split
    · exact .inl rfl
    · exact errorResponse_okOrUnchanged s nofun

theorem fwrite_okOrUnchanged (slot : BitVec 16) (bytes : List Byte) (s : State) :
    OkOrUnchanged s (fwrite slot bytes s) := by
  unfold fwrite
  split
  · exact errorResponse_okOrUnchanged s nofun
  · split
    · exact .inl rfl
    · exact errorResponse_okOrUnchanged s nofun

theorem hfeed_okOrUnchanged (hid : BitVec 16) (bytes : List Byte) (s : State) :
    OkOrUnchanged s (hfeed hid bytes s) := by
  unfold hfeed
  split
  · exact errorResponse_okOrUnchanged s nofun
  · exact .inl rfl

theorem hdump_okOrUnchanged (hid : BitVec 16) (s : State) : OkOrUnchanged s (hdump hid s) := by
  unfold hdump
  split
  · exact errorResponse_okOrUnchanged s nofun
  · exact .inl rfl

theorem fdopen_okOrUnchanged (w : Word) (s : State) : OkOrUnchanged s (fdopen w s) := by
  unfold fdopen
  split
  · exact errorResponse_okOrUnchanged s nofun
  · split
    · exact errorResponse_okOrUnchanged s nofun
    · exact .inl rfl

theorem fdclose_okOrUnchanged (slot : BitVec 16) (s : State) : OkOrUnchanged s (fdclose slot s) := by
  unfold fdclose
  split
  · exact .inl rfl
  · exact errorResponse_okOrUnchanged s nofun
  · exact errorResponse_okOrUnchanged s nofun

/-- `EXEC` answers `OK` whatever stopped it (R223, R228). -/
theorem execIn_status (env : Env) (b : Word) (s : State) : (execIn env b s).resp.status = .ok := by
  by_cases hx : s.xstate = .running
  · rw [execIn_running b hx]; rfl
  · rw [execIn_notRunning b hx]; rfl

/-- A malformed payload and a wrong state are the errors of `INIT` but `InitError`, which sets the latch (R222). -/
theorem initIn_status (env : Env) (bytes : List Byte) (s : State) :
    OkOrUnchanged s (initIn env bytes s) ∨ initIn env bytes s = s.initFails := by
  obtain ⟨-, he⟩ | ⟨ops, -, ⟨-, he⟩ | ⟨-, -, he⟩ | ⟨r, -, -, -, -, he⟩⟩ := initIn_cases env bytes s
  · exact .inl (he ▸ errorResponse_okOrUnchanged s nofun)
  · exact .inl (he ▸ errorResponse_okOrUnchanged s nofun)
  · exact .inr he
  · exact .inl (he ▸ .inl rfl)

/-- A command answers `OK`, or an error that changes nothing, or it is an `INIT` that fails. -/
theorem exec_status {i : Instr} {s t : State} (h : exec i s = .next t) :
    OkOrUnchanged s t ∨ (∃ bytes, i = .init bytes) ∧ t = s.initFails := by
  cases i with
  | init bytes =>
    cases h
    exact (initIn_status Config.env bytes s).imp_right fun he => ⟨⟨bytes, rfl⟩, he⟩
  | exec b => cases h; exact .inl (.inl (execIn_status ..))
  | ioplassign w => cases h; exact .inl (ioplassign_okOrUnchanged w s)
  | stdio => cases h; exact .inl (stdio_okOrUnchanged s)
  | hnew caps => cases h; exact .inl (hnew_okOrUnchanged caps s)
  | install slot w => cases h; exact .inl (install_okOrUnchanged slot w s)
  | fread slot n => cases h; exact .inl (fread_okOrUnchanged slot n s)
  | fwrite slot bytes => cases h; exact .inl (fwrite_okOrUnchanged slot bytes s)
  | hfeed hid bytes => cases h; exact .inl (hfeed_okOrUnchanged hid bytes s)
  | hdump hid => cases h; exact .inl (hdump_okOrUnchanged hid s)
  | fdopen w => cases h; exact .inl (fdopen_okOrUnchanged w s)
  | fdclose slot => cases h; exact .inl (fdclose_okOrUnchanged slot s)
  | stateget | errget | retget => cases h; exact .inl (.inl (by cases s.xstate <;> rfl))
  | _ => cases h; exact .inl (.inl rfl)

/-- Settles O53, by the three outcomes of `exec_status`. -/
theorem errorStatusChangesNothing : Obligations.ErrorStatusChangesNothing := by
  intro i s t h
  refine ⟨fun hok hinit => ?_, fun hinit => ?_, ?_⟩
  · obtain (hok' | ⟨-, ht⟩) | ⟨-, rfl⟩ := exec_status h
    · exact absurd hok' hok
    · exact ht
    · exact absurd rfl hinit
  · obtain (hok | ⟨hne, -⟩) | ⟨hi, rfl⟩ := exec_status h
    · rw [hinit] at hok
      cases hok
    · exact absurd hinit hne
    · exact ⟨hi, rfl⟩
  · rintro b rfl
    cases h
    exact execIn_status ..

end Sys2Proof.Machine
end

section
/-! SUPPORT. One step over a command of either port of the host, and what port IU serves. -/

namespace Sys2Proof.Machine

open Sys2Proof.Claims

/-! ### One step over a command of the host -/

/-- Every command completes: its meaning answers a next state. -/
theorem exec_completes (i : Instr) (s : State) : ∃ t, exec i s = .next t := by
  cases i <;> exact ⟨_, rfl⟩

/-- A step over a legal command on port HC. -/
theorem step_of_decode {s : State} {c : Command} {rest : List HostInput} {i : Instr} (hi : s.inputs = .hc c :: rest)
    (hc : decode c = .ok i) : step s = answerOnHc (exec i { s with inputs := rest }) := by
  rw [step_eq, hi]
  simp only [performHc, hc]

/-- Settles O8; delivering the response is what `answerOnHc` does to each outcome. -/
theorem stepRunsTheDecodedCommand : Obligations.StepRunsTheDecodedCommand := by
  intro s c rest i hi hc
  rw [step_of_decode hi hc]
  cases exec i { s with inputs := rest } <;> rfl

/-- Settles O9, which `step_of_reject` states for every illegal word. -/
theorem illegalWordAnswersBadCommand : Obligations.IllegalWordAnswersBadCommand :=
  fun _ _ _ _ hi hc => step_of_reject hc hi

/-- A row's word names what the decoder reads from its command. -/
theorem decode_of_decodeTableWord {nbits w : Nat} {i : Instr} (h : decodeTableWord nbits w = some i) :
    decode (commandOfTableWord nbits w) = .ok i := by
  unfold decodeTableWord at h
  split at h
  · next hc => cases h; exact hc
  · cases h

/-- Settles O10: the word presented is the oldest input, and what waits without it is the state itself. -/
theorem fetchedWordIsServedNext : Obligations.FetchedWordIsServedNext := by
  intro s w i hw
  exact stepRunsTheDecodedCommand (s.withFetchWord 32 w) _ s.inputs i rfl (decode_of_decodeTableWord hw)

/-- Settles O11, by what the host presented first; on port HC every command completes. -/
theorem everyStepCompletes : Obligations.EveryStepCompletes := by
  intro s
  cases hi : s.inputs with
  | nil => exact ⟨_, by rw [step_eq, hi]⟩
  | cons x rest =>
    cases x with
    | hc c =>
      cases hc : decode c with
      | ok i =>
        obtain ⟨t, ht⟩ := exec_completes i { s with inputs := rest }
        exact ⟨t.answerHc, by rw [step_of_decode hi hc, ht]; rfl⟩
      | error e => exact ⟨_, step_of_reject hc hi⟩
    | hs c => exact ⟨_, by rw [step_eq, hi]⟩
    | reset => exact ⟨_, by rw [step_eq, hi]⟩

/-- Settles O42: port HS means for two commands what HC means, and rejects the rest. -/
theorem handleSidePortRights : Obligations.HandleSidePortRights := by
  intro s c rest hi
  have hstep : step s = .next (performHs c { s with inputs := rest }).answerHs := by rw [step_eq, hi]
  refine ⟨fun i t hc hside ht => ?_, ?_⟩
  · rw [exec_eq_performHs _ hc hside] at ht
    cases ht
    exact hstep
  · rintro (⟨i, hc, hside⟩ | ⟨e, hc⟩)
    · rw [hstep, performHs_of_not_handleSide _ hc hside]; rfl
    · rw [hstep, performHs_of_illegal _ hc]; rfl

/-! ### Port IU -/

@[simp] theorem hostPoint_pc (env : Env) (s : State) : (hostPoint env s).pc = s.pc := by
  rw [(hostPoint_hostReach env s).rest]

@[simp] theorem hostPoint_maxMemory (env : Env) (s : State) : (hostPoint env s).maxMemory = s.maxMemory := by
  rw [(hostPoint_hostReach env s).rest]

theorem mayGrow_iff {s : State} {bytes : List Byte} :
    s.mayGrow bytes = true ↔ s.mem.size + bytes.length ≤ s.maxMemory.toNat := decide_eq_true_iff

/-- The ten commands of the host are rejected on port IU (R99). -/
theorem unitCommand_of_hostOnly {i : Instr} (s : State) (h : Instr.hostOnly i = true) :
    unitCommand i s = s.rejectCommand := by
  cases i with
  | init | exec | stateget | errget | retget | stdio | hnew | install | hfeed | hdump => rfl
  | _ => cases h

theorem performIu_of_decode {c : Command} {i : Instr} (s : State) (hc : decode c = .ok i) :
    performIu c s = unitCommand i s := by
  simp only [performIu, hc]

theorem performIu_of_illegal {c : Command} {e : Reject} (s : State) (hc : decode c = .error e) :
    performIu c s = s.rejectCommand := by
  simp only [performIu, hc]

section

variable (env : Env) (s : State) (failed : Bool)

theorem runUnit_memGrow_within (k : Bool → UnitProgram) {bytes : List Byte}
    (h : s.mem.size + bytes.length ≤ s.maxMemory.toNat) :
    runUnit env (.memGrow bytes k) failed s =
      runUnit env (k true) failed ((hostPoint env s).setMem (s.mem.grow bytes)) := by
  have hgrow : (hostPoint env s).mayGrow bytes = true := mayGrow_iff.mpr (by simpa using h)
  simp only [runUnit, if_pos hgrow, hostPoint_mem]

theorem runUnit_memGrow_beyond (k : Bool → UnitProgram) {bytes : List Byte}
    (h : s.maxMemory.toNat < s.mem.size + bytes.length) :
    runUnit env (.memGrow bytes k) failed s = runUnit env (k false) failed (hostPoint env s) := by
  have hgrow : ¬(hostPoint env s).mayGrow bytes = true := fun hg => by
    have := mayGrow_iff.mp hg
    simp only [hostPoint_mem, hostPoint_maxMemory] at this
    omega
  simp only [runUnit, if_neg hgrow]

theorem runUnit_memShrink (size : Nat) (k : UnitProgram) :
    runUnit env (.memShrink size k) failed s = runUnit env k failed ((hostPoint env s).setMem (s.mem.shrink size)) := by
  simp only [runUnit, hostPoint_mem]

theorem runUnit_readPc (k : Word → UnitProgram) :
    runUnit env (.readPc k) failed s = runUnit env (k s.pc) failed (hostPoint env s) := by
  simp only [runUnit, hostPoint_pc]

end

theorem growAccess : GrowAccess := by
  intro env bytes k failed s hwf
  refine ⟨fun hin => ?_, fun hout => runUnit_memGrow_beyond env s failed k hout⟩
  refine ⟨s.mem.grow bytes, runUnit_memGrow_within env s failed k hin, rfl, Memory.grow_wf hwf bytes, fun a ha => ?_,
    fun i _ => ?_⟩
  · rw [Memory.grow_byte hwf, if_pos ha]
  · rw [Memory.grow_byte hwf, if_neg (by omega), Nat.add_sub_cancel_left]

theorem shrinkAccess : ShrinkAccess := by
  intro env size k failed s hwf
  refine ⟨s.mem.shrink size, runUnit_memShrink env s failed size k, rfl, Memory.shrink_wf hwf size, fun a ha => ?_⟩
  have hlt : a < size := Nat.lt_of_lt_of_le ha (Nat.min_le_left ..)
  rw [Memory.shrink_byte, if_pos hlt]

/-- Settles O41: the commands of port IU, then each access of a cycle. -/
theorem instructionUnitPortRights : Obligations.InstructionUnitPortRights := by
  refine ⟨fun i s h => unitCommand_of_hostOnly s h, fun i s h => exec_eq_unitCommand s h, fun c s =>
    ⟨fun i hc => performIu_of_decode s hc, fun e hc => performIu_of_illegal s hc⟩, ?_, fun _ _ _ => ⟨rfl, rfl⟩, ?_,
    fun env _ k _ failed s => ⟨runUnit_readPc env s failed k, rfl⟩, growAccess, shrinkAccess⟩
  · rintro env s _ rfl
    rfl
  · rintro env c k failed s _ rfl
    rfl

end Sys2Proof.Machine
end

section
/-! SUPPORT. The fault kinds and their codes; worked encodings and written forms. -/

namespace Sys2Proof.Machine

open Sys2Proof.Claims

/-! ### Fault kinds -/

theorem faultCode_unitKind_toNat (n : Fin 252) : (faultCode (.unitKind n)).toNat = n.val + 4 := by
  rw [faultCode, BitVec.toNat_ofNat]
  omega

/-- The fault kind a code stands for (R91, R300); code 0 stands for none. -/
def faultOfCode (c : BitVec 8) : Option FaultKind :=
  match c.toNat with
  | 0 => none
  | 1 => some .invalidMemoryAccess
  | 2 => some .illegalInstruction
  | 3 => some .arithmeticFault
  | n + 4 => if h : n < 252 then some (.unitKind ⟨n, h⟩) else none

/-- Every kind is read back from its code. -/
@[simp] theorem faultOfCode_faultCode (k : FaultKind) : faultOfCode (faultCode k) = some k := by
  cases k with
  | unitKind n => simp [faultOfCode, faultCode_unitKind_toNat]
  | _ => rfl

/-- Every code but 0 is a kind's. -/
theorem exists_faultCode_eq {c : BitVec 8} (hc : c ≠ 0) : ∃ k, faultCode k = c := by
  have hlt := c.isLt
  match hn : c.toNat with
  | 0 => exact absurd (BitVec.eq_of_toNat_eq hn) hc
  | 1 => exact ⟨.invalidMemoryAccess, BitVec.eq_of_toNat_eq hn.symm⟩
  | 2 => exact ⟨.illegalInstruction, BitVec.eq_of_toNat_eq hn.symm⟩
  | 3 => exact ⟨.arithmeticFault, BitVec.eq_of_toNat_eq hn.symm⟩
  | n + 4 =>
    exact ⟨.unitKind ⟨n, by omega⟩, BitVec.eq_of_toNat_eq ((faultCode_unitKind_toNat _).trans hn.symm)⟩

/-- Settles O34: `faultOfCode` is the inverse, and it gives nothing for code 0. -/
theorem faultKindsAreTheNonzeroCodes : Obligations.FaultKindsAreTheNonzeroCodes := by
  refine ⟨fun k hk => ?_, fun k k' h => ?_, fun c hc => exists_faultCode_eq hc, rfl, rfl, rfl⟩
  · have hnone : faultOfCode (faultCode k) = none := by rw [hk]; rfl
    simp at hnone
  · have hsome : faultOfCode (faultCode k) = faultOfCode (faultCode k') := by rw [h]
    simpa using hsome

/-! ### Worked encodings and written forms -/

/-- Settles O4: both directions evaluate to the words of R101. -/
theorem workedEncodings : Obligations.WorkedEncodings := by
  unfold Obligations.WorkedEncodings
  decide

/-- Settles O5: the written forms evaluate to the examples of R97. -/
theorem writtenForms : Obligations.WrittenForms := by
  unfold Obligations.WrittenForms
  decide

end Sys2Proof.Machine
end

section
/-! SUPPORT. The register file: `RGET` and `RSET` through each view, and register commands repeated. -/

namespace Sys2Proof.Machine

open Sys2Proof.Claims

/-! ### The words of `RGET` and `RSET` -/

/-- A word of format `R` names its command for every register of the view's domain (R83, R87, R88). -/
theorem names_formatR {word regs : Nat} {op : BitVec 8} {mk : Word → View → RegIdx → Instr} (v : View)
    (hword : word = op.toNat * 2 ^ 24 + (codeOfView v).toNat * 2 ^ 16)
    (hop : ∀ sel idx wdata payload, decodeFields op sel idx wdata payload = formatR sel idx (mk wdata))
    (hregs : v.isHigh = true → regs ≤ 4) {reg : RegIdx} (hreg : reg.val < regs) :
    Names (word + reg.val) fun wdata _ => mk wdata v reg := by
  intro wdata payload
  have hdomain : ¬(v.isHigh && !highReg reg) = true := by
    cases hv : v.isHigh with
    | false => simp
    | true => simpa [highReg] using Nat.lt_of_lt_of_le hreg (hregs hv)
  rw [decode_formatR (mk := mk wdata) v reg hword fun sel idx => hop sel idx wdata payload, if_neg hdomain]

/-- `RGET` through any view: its words (R87, R88) and its effect (R111). -/
theorem readsView_rget {word regs : Nat} {read : Word → Word} (v : View)
    (hword : word = 0x10 * 2 ^ 24 + (codeOfView v).toNat * 2 ^ 16) (hregs : v.isHigh = true → regs ≤ 4)
    (hread : ∀ x, viewRead v x = read x) : ReadsView (.rget v) word regs read := by
  refine ⟨fun reg hreg => ?_, fun reg s => ?_⟩
  · exact names_formatR (op := 0x10#8) (mk := fun _ => .rget) v hword (fun _ _ _ _ => rfl) hregs hreg
  · rw [exec_rget, ← hread]
    rfl

/-- `RSET` through any view: its words (R87, R88) and its effect (R112), the register bit by bit. -/
theorem mergesView_rset {word regs : Nat} (v : View)
    (hword : word = 0x11 * 2 ^ 24 + (codeOfView v).toNat * 2 ^ 16) (hregs : v.isHigh = true → regs ≤ 4) :
    MergesView (.rset v) word regs (viewLow v) (viewWidth v) := by
  refine ⟨fun reg hreg => ?_, fun reg value s => ⟨viewWrite v (s.reg reg) value, ?_, fun i hi => ?_⟩⟩
  · exact names_formatR (op := 0x11#8) (mk := fun wdata v reg => .rset v reg wdata) v hword (fun _ _ _ _ => rfl)
      hregs hreg
  · exact exec_rset v reg value s
  · exact getLsbD_viewWrite v (s.reg reg) value i hi

/-- A view of all 64 bits reads the register as it is: there is nothing to extend. -/
theorem viewRead_of_whole {v : View} (hlow : viewLow v = 0) (hwidth : viewWidth v = 64) (x : Word) :
    viewRead v x = x := by
  refine BitVec.eq_of_getLsbD_eq fun i hi => ?_
  rw [getLsbD_viewRead v x i hi, hwidth, if_pos hi, hlow, Nat.zero_add]

/-- Settles O13: `mergesView_rset`, view by view. -/
theorem rsetMergesItsView : Obligations.RsetMergesItsView :=
  ⟨mergesView_rset .u64 rfl nofun, mergesView_rset .i64 rfl nofun, mergesView_rset .f64 rfl nofun,
    mergesView_rset .u32 rfl nofun, mergesView_rset .i32 rfl nofun, mergesView_rset .f32 rfl nofun,
    mergesView_rset .u16 rfl nofun, mergesView_rset .i16 rfl nofun,
    mergesView_rset .u8 rfl nofun, mergesView_rset .i8 rfl nofun,
    mergesView_rset .u8h rfl fun _ => Nat.le_refl 4, mergesView_rset .i8h rfl fun _ => Nat.le_refl 4⟩

/-- Settles O12: `readsView_rget`, view by view; the three views of 64 bits read the register as it is. -/
theorem rgetReadsItsView : Obligations.RgetReadsItsView :=
  ⟨readsView_rget .u64 rfl nofun (viewRead_of_whole rfl rfl),
    readsView_rget .i64 rfl nofun (viewRead_of_whole rfl rfl),
    readsView_rget .f64 rfl nofun (viewRead_of_whole rfl rfl),
    readsView_rget .u32 rfl nofun fun _ => rfl, readsView_rget .i32 rfl nofun fun _ => rfl,
    readsView_rget .f32 rfl nofun fun _ => rfl,
    readsView_rget .u16 rfl nofun fun _ => rfl, readsView_rget .i16 rfl nofun fun _ => rfl,
    readsView_rget .u8 rfl nofun fun _ => rfl, readsView_rget .i8 rfl nofun fun _ => rfl,
    readsView_rget .u8h rfl (fun _ => Nat.le_refl 4) fun _ => rfl,
    readsView_rget .i8h rfl (fun _ => Nat.le_refl 4) fun _ => rfl⟩

/-! ### Register commands repeated (R139) -/

/-- Writing the same value through a view again changes nothing. -/
@[simp] theorem viewWrite_viewWrite (v : View) (x value : Word) :
    viewWrite v (viewWrite v x value) value = viewWrite v x value := by
  refine BitVec.eq_of_getLsbD_eq fun i hi => ?_
  rw [getLsbD_viewWrite v _ value i hi, getLsbD_viewWrite v x value i hi]
  split <;> rfl

/-- Writing back what a view reads changes nothing: the extension lies above the view's width, which is not written. -/
@[simp] theorem viewWrite_viewRead (v : View) (x : Word) : viewWrite v x (viewRead v x) = x := by
  refine BitVec.eq_of_getLsbD_eq fun i hi => ?_
  rw [getLsbD_viewWrite v x _ i hi]
  split
  · next hin =>
    rw [getLsbD_viewRead v x _ (by omega), if_pos (by omega), Nat.add_sub_cancel' hin.1]
  · rfl

@[simp] theorem State.setReg_setReg (s : State) (reg : RegIdx) (x y : Word) :
    (s.setReg reg x).setReg reg y = s.setReg reg y := by
  simp [State.setReg]

@[simp] theorem State.setReg_reg_same (s : State) (reg : RegIdx) (x : Word) : (s.setReg reg x).reg reg = x := by
  simp [State.setReg, State.reg]

@[simp] theorem State.setReg_reg_self (s : State) (reg : RegIdx) : s.setReg reg (s.reg reg) = s := by
  simp [State.setReg, State.reg]

theorem viewGet_viewGet (v : View) (reg : RegIdx) (s : State) : viewGet v reg (viewGet v reg s) = viewGet v reg s := rfl

/-- `RSET` does not look at the last response. -/
theorem viewSet_answer (v : View) (reg : RegIdx) (value : Word) (r : Response) (s : State) :
    viewSet v reg value (s.answer r) = viewSet v reg value s := rfl

theorem viewSet_viewSet (v : View) (reg : RegIdx) (value : Word) (s : State) :
    viewSet v reg value (viewSet v reg value s) = viewSet v reg value s := by
  have hagain : viewSet v reg value (s.setReg reg (viewWrite v (s.reg reg) value)) = viewSet v reg value s := by
    rw [viewSet, State.setReg_reg_same, viewWrite_viewWrite, State.setReg_setReg, viewSet]
  exact (viewSet_answer v reg value {} _).trans hagain

/-- Writing back through a view what it read leaves all but the response as it was. -/
theorem viewSet_viewGet (v : View) (reg : RegIdx) (s : State) :
    viewSet v reg (viewGet v reg s).resp.rdata (viewGet v reg s) = s.answer {} := by
  rw [viewGet_rdata, viewGet, viewSet_answer, viewSet, viewWrite_viewRead, State.setReg_reg_self]

/-- Settles O16: the laws of `viewGet` and `viewSet`, which are what the commands do. -/
theorem registerCommandsRepeat : Obligations.RegisterCommandsRepeat := by
  intro V reg value s t u
  unfold Runs
  simp only [exec_rget, exec_rset]
  refine ⟨fun ht hu => ?_, fun ht hu => ?_, fun ht hu => ?_⟩ <;> cases ht <;> cases hu
  · exact viewGet_viewGet V reg s
  · exact viewSet_viewSet V reg value s
  · exact viewSet_viewGet V reg s

end Sys2Proof.Machine
end

section
/-! SUPPORT. The flags register: the words and the effects of its commands, the condition codes, and which flags an
assignment leaves as they were. -/

namespace Sys2Proof.Machine

open Sys2Proof.Claims

/-! ### What the commands of the flags register do -/

theorem exec_fget (f : Flag) (s : State) : exec (.fget f) s = .next (flagRead f s) := by
  cases f <;> rfl

theorem exec_fassign (f : Flag) (value : Word) (s : State) :
    exec (.fassign f value) s = .next (flagAssign f value s) := by
  cases f <;> rfl

theorem exec_cc (c : CondCode) (s : State) : exec (.cc c) s = .next (conditionRead c s) := by
  cases c <;> rfl

theorem exec_ioplget (s : State) : exec .ioplget s = .next (ioplget s) := rfl

theorem exec_ioplassign (value : Word) (s : State) : exec (.ioplassign value) s = .next (ioplassign value s) := rfl

/-- A command leaves one state only. -/
theorem runs_iff {i : Instr} {s u t : State} (h : exec i s = .next u) : Runs i s t ↔ t = u := by
  simp [Runs, h, eq_comm]

theorem runs_fget {f : Flag} {s t : State} : Runs (.fget f) s t ↔ t = flagRead f s := runs_iff (exec_fget f s)

theorem runs_fassign {f : Flag} {value : Word} {s t : State} :
    Runs (.fassign f value) s t ↔ t = flagAssign f value s :=
  runs_iff (exec_fassign f value s)

theorem runs_cc {c : CondCode} {s t : State} : Runs (.cc c) s t ↔ t = conditionRead c s := runs_iff (exec_cc c s)

theorem runs_ioplget {s t : State} : Runs .ioplget s t ↔ t = ioplget s := runs_iff (exec_ioplget s)

theorem runs_ioplassign {value : Word} {s t : State} : Runs (.ioplassign value) s t ↔ t = ioplassign value s :=
  runs_iff (exec_ioplassign value s)

/-- `IOPLASSIGN` of a level the field can hold (R187). -/
theorem ioplassign_of_le {value : Word} (h : value.toNat % 256 ≤ 3) (s : State) :
    ioplassign value s = (s.setFlags (ioplPut value s.flags)).answer {} := by
  rw [ioplassign, ioplOperand_toNat, if_neg (Nat.not_lt.mpr h)]

/-- `IOPLASSIGN` of a greater value (R187). -/
theorem ioplassign_of_gt {value : Word} (h : 3 < value.toNat % 256) (s : State) :
    ioplassign value s = s.answer { status := .outOfBounds, rdata := BitVec.ofNat 64 (value.toNat % 256) } := by
  rw [ioplassign, ioplOperand_toNat, if_pos h, ← BitVec.ofNat_toNat, ioplOperand_toNat]

/-! ### One word per command, one effect per command -/

/-- A row of the tables with `idx = 0` is named by the word of its fields, whatever the operands hold (R83). -/
theorem names_of_tableRow {word : Nat} {op sel : BitVec 8} {mk : Word → List Byte → Instr}
    (hword : word = op.toNat * 2 ^ 24 + sel.toNat * 2 ^ 16)
    (hrow : ∀ wdata payload, TableRow wdata payload op sel 0#16 (mk wdata payload)) : Names word mk := by
  intro wdata payload
  have hcmd : BitVec.ofNat 32 word = packFields op sel 0#16 := by
    rw [hword, packFields, BitVec.toNat_zero, Nat.add_zero]
  rw [hcmd]
  exact (hrow wdata payload).decode_packFields

theorem bitData_eq_bitAsData (b : Bool) : bitData b = bitAsData b := bitData_eq b

/-- `FGET` of any flag: its word (R87, R89) and its effect (R151). -/
theorem readsFlag_fget {word : Nat} (f : Flag) (hword : word = 0x20 * 2 ^ 24 + (idOfFlag f).toNat * 2 ^ 16) :
    ReadsFlag (.fget f) word (flagBit f) := by
  refine ⟨names_of_tableRow (op := 0x20#8) hword fun _ _ => .fget f, fun s => ?_⟩
  rw [exec_fget, flagRead, bitData_eq_bitAsData]
  rfl

/-- `FASSIGN` of any flag: its word (R87, R89) and its effect (R151), the flags word bit by bit. -/
theorem assignsFlag_fassign {word : Nat} (f : Flag) (hword : word = 0x21 * 2 ^ 24 + (idOfFlag f).toNat * 2 ^ 16) :
    AssignsFlag (.fassign f) word (flagBit f) := by
  refine ⟨names_of_tableRow (op := 0x21#8) hword fun _ _ => .fassign f,
    fun value s => ⟨flagPut f (bitOperand value) s.flags, ?_, fun i hi => ?_⟩⟩
  · exact exec_fassign f value s
  · exact getLsbD_flagPut f (bitOperand value) s.flags i hi

/-- `CC` of any condition code: its word (R87, R90) and its effect (R192). -/
theorem readsCondition_cc {word : Nat} {cond : Bool → Bool → Bool → Bool → Bool} (c : CondCode)
    (hword : word = 0x26 * 2 ^ 24 + (idOfCond c).toNat * 2 ^ 16)
    (hcond : ∀ flags, condition c flags =
      cond (flagGet .cf flags) (flagGet .zf flags) (flagGet .sf flags) (flagGet .of flags)) :
    ReadsCondition (.cc c) word cond := by
  refine ⟨names_of_tableRow (op := 0x26#8) hword fun _ _ => .cc c, fun s b hb => ?_⟩
  have hvalue : condition c s.flags = b := (hcond s.flags).trans hb.symm
  rw [exec_cc, conditionRead, hvalue, bitData_eq_bitAsData]
  rfl

/-- Settles O19: `assignsFlag_fassign`, flag by flag. -/
theorem fassignWritesTheArithmeticFlags : Obligations.FassignWritesTheArithmeticFlags :=
  ⟨assignsFlag_fassign .cf rfl, assignsFlag_fassign .pf rfl, assignsFlag_fassign .af rfl, assignsFlag_fassign .zf rfl,
    assignsFlag_fassign .sf rfl, assignsFlag_fassign .tf rfl, assignsFlag_fassign .ie rfl, assignsFlag_fassign .df rfl,
    assignsFlag_fassign .of rfl⟩

/-- Settles O20: `assignsFlag_fassign`, flag by flag. -/
theorem fassignWritesTheSystemFlags : Obligations.FassignWritesTheSystemFlags :=
  ⟨assignsFlag_fassign .nt rfl, assignsFlag_fassign .rf rfl, assignsFlag_fassign .vm rfl, assignsFlag_fassign .ac rfl,
    assignsFlag_fassign .vif rfl, assignsFlag_fassign .vip rfl, assignsFlag_fassign .id rfl,
    assignsFlag_fassign .ct rfl⟩

/-- Settles O21: the two cases of `IOPLASSIGN`; the written word bit by bit is `getLsbD_ioplPut`. -/
theorem ioplFieldIsReadAndBounded : Obligations.IoplFieldIsReadAndBounded := by
  refine ⟨names_of_tableRow rfl fun _ _ => .ioplget, names_of_tableRow rfl fun _ _ => .ioplassign, exec_ioplget,
    fun v s hv => ?_, fun v s hv => ⟨ioplPut v s.flags, ?_, fun i hi => ?_⟩⟩
  · rw [exec_ioplassign, ioplassign_of_gt hv]
    rfl
  · rw [exec_ioplassign, ioplassign_of_le hv]
    rfl
  · exact getLsbD_ioplPut v s.flags i hi

/-- Settles O17: `readsFlag_fget`, flag by flag. -/
theorem fgetReadsTheArithmeticFlags : Obligations.FgetReadsTheArithmeticFlags :=
  ⟨readsFlag_fget .cf rfl, readsFlag_fget .pf rfl, readsFlag_fget .af rfl, readsFlag_fget .zf rfl,
    readsFlag_fget .sf rfl, readsFlag_fget .tf rfl, readsFlag_fget .ie rfl, readsFlag_fget .df rfl,
    readsFlag_fget .of rfl⟩

/-- Settles O18: `readsFlag_fget`, flag by flag. -/
theorem fgetReadsTheSystemFlags : Obligations.FgetReadsTheSystemFlags :=
  ⟨readsFlag_fget .nt rfl, readsFlag_fget .rf rfl, readsFlag_fget .vm rfl, readsFlag_fget .ac rfl,
    readsFlag_fget .vif rfl, readsFlag_fget .vip rfl, readsFlag_fget .id rfl, readsFlag_fget .ct rfl⟩

/-- Settles O22: two rows of the tables, and what their commands do with the whole word. -/
theorem flagsWordIsReadAndReplaced : Obligations.FlagsWordIsReadAndReplaced :=
  ⟨names_of_tableRow rfl fun _ _ => .flagsget, names_of_tableRow rfl fun _ _ => .flagsset, fun _ => rfl, fun _ _ => rfl⟩

/-- Settles O23: `readsCondition_cc`, code by code. -/
theorem conditionCodes : Obligations.ConditionCodes :=
  ⟨readsCondition_cc .b rfl fun _ => rfl, readsCondition_cc .be rfl fun _ => rfl, readsCondition_cc .a rfl fun _ => rfl,
    readsCondition_cc .ae rfl fun _ => rfl, readsCondition_cc .l rfl fun _ => rfl,
    readsCondition_cc .le rfl fun _ => rfl, readsCondition_cc .g rfl fun _ => rfl,
    readsCondition_cc .ge rfl fun _ => rfl⟩

/-! ### An assignment changes one flag (R190) -/

/-- No one-bit flag lies in the IOPL field (R27). -/
theorem flagBit_outside_iopl (f : Flag) : ¬(12 ≤ flagBit f ∧ flagBit f < 14) := by
  cases f <;> decide

theorem getLsbD_ioplGet (flags : Word) (i : Nat) (hi : i < 2) : (ioplGet flags).getLsbD i = flags.getLsbD (12 + i) := by
  simp [ioplGet, ioplLow, hi]

theorem ioplGet_flagPut (f : Flag) (b : Bool) (flags : Word) : ioplGet (flagPut f b flags) = ioplGet flags := by
  refine BitVec.eq_of_getLsbD_eq fun i hi => ?_
  have hbit : 12 + i ≠ flagBit f := fun e => flagBit_outside_iopl f (by omega)
  rw [getLsbD_ioplGet _ i hi, getLsbD_ioplGet _ i hi, getLsbD_flagPut f b flags _ (by omega), if_neg hbit]

theorem flagGet_ioplPut (g : Flag) (level flags : Word) : flagGet g (ioplPut level flags) = flagGet g flags := by
  rw [flagGet, getLsbD_ioplPut level flags _ (flagBit_lt g), if_neg (flagBit_outside_iopl g), flagGet]

theorem ioplGet_ioplPut (level flags : Word) : ioplGet (ioplPut level flags) = level.setWidth 2 := by
  refine BitVec.eq_of_getLsbD_eq fun i hi => ?_
  rw [getLsbD_ioplGet _ i hi, getLsbD_ioplPut level flags _ (by omega), if_pos (by omega), Nat.add_sub_cancel_left,
    BitVec.getLsbD_setWidth]
  simp [hi]

/-- The two bits of a level the field can hold are the whole operand. -/
theorem setWidth_level {value : Word} (h : value.toNat % 256 ≤ 3) :
    (value.setWidth 2).setWidth 64 = BitVec.ofNat 64 (value.toNat % 256) := by
  have hmod : value.toNat % 2 ^ 2 = value.toNat % 256 := by omega
  rw [← BitVec.ofNat_toNat, BitVec.toNat_setWidth, hmod]

/-- Settles O25: what the flags and the IOPL field read after one flag is put (`flagGet_flagPut`, `ioplGet_flagPut`), and
after the field is put (`flagGet_ioplPut`, `ioplGet_ioplPut`). -/
theorem flagAssignmentsAreIndependent : Obligations.FlagAssignmentsAreIndependent := by
  constructor
  · intro f g v s t a b c d ht ha hb hc hd
    obtain rfl := runs_fassign.mp ht
    obtain rfl := runs_fget.mp ha
    obtain rfl := runs_fget.mp hb
    obtain rfl := runs_ioplget.mp hc
    obtain rfl := runs_ioplget.mp hd
    have hg : flagGet g (flagAssign f v s).flags = if g = f then bitOperand v else flagGet g s.flags :=
      flagGet_flagPut f g (bitOperand v) s.flags
    have hiopl : ioplGet (flagAssign f v s).flags = ioplGet s.flags := ioplGet_flagPut f (bitOperand v) s.flags
    refine ⟨fun hfg => ?_, fun hfg => ?_, ?_⟩
    · rw [if_pos hfg.symm] at hg
      rw [flagRead, hg]
      exact bitData_eq (bitOperand v)
    · rw [if_neg (Ne.symm hfg)] at hg
      rw [flagRead, hg]
      rfl
    · rw [ioplget, hiopl]
      rfl
  · intro g v s t a b d hv ht ha hb hd
    rw [runs_ioplassign, ioplassign_of_le hv] at ht
    obtain rfl := ht
    obtain rfl := runs_fget.mp ha
    obtain rfl := runs_fget.mp hb
    obtain rfl := runs_ioplget.mp hd
    constructor
    · rw [flagRead, State.answer_flags, State.setFlags_flags, flagGet_ioplPut]
      rfl
    · rw [ioplget, State.answer_flags, State.setFlags_flags, ioplGet_ioplPut, setWidth_level hv]
      rfl

/-! ### The condition codes among themselves (R193) -/

theorem bitData_complement {a b : Bool} (h : a = !b) : bitData a = 1 - bitData b := by
  subst h
  cases b <;> rfl

theorem bitData_eq_one {b : Bool} : bitData b = 1 ↔ b = true := by
  cases b <;> decide

theorem bitData_imp {a b : Bool} (h : a = true → b = true) (ha : bitData a = 1) : bitData b = 1 :=
  bitData_eq_one.mpr (h (bitData_eq_one.mp ha))

section
variable (flags : Word)

theorem condition_ae : condition .ae flags = !condition .b flags := rfl
theorem condition_a : condition .a flags = !condition .be flags := rfl
theorem condition_ge : condition .ge flags = !condition .l flags := rfl
theorem condition_g : condition .g flags = !condition .le flags := rfl
theorem condition_be : condition .be flags = (condition .b flags || flagGet .zf flags) := rfl
theorem condition_le : condition .le flags = (condition .l flags || flagGet .zf flags) := rfl

theorem condition_be_of_b (h : condition .b flags = true) : condition .be flags = true := by
  rw [condition_be, h, Bool.true_or]

theorem condition_le_of_l (h : condition .l flags = true) : condition .le flags = true := by
  rw [condition_le, h, Bool.true_or]

theorem condition_ae_of_a (h : condition .a flags = true) : condition .ae flags = true := by
  rw [condition_a, condition_be, Bool.not_or, Bool.and_eq_true] at h
  obtain ⟨hnot, -⟩ := h
  rw [condition_ae, hnot]

theorem condition_ge_of_g (h : condition .g flags = true) : condition .ge flags = true := by
  rw [condition_g, condition_le, Bool.not_or, Bool.and_eq_true] at h
  obtain ⟨hnot, -⟩ := h
  rw [condition_ge, hnot]

end

/-- A condition depends on `CF`, `ZF`, `SF` and `OF` only. -/
theorem condition_congr {f g : Word} (hcf : flagGet .cf f = flagGet .cf g) (hzf : flagGet .zf f = flagGet .zf g)
    (hsf : flagGet .sf f = flagGet .sf g) (hof : flagGet .of f = flagGet .of g) (c : CondCode) :
    condition c f = condition c g := by
  simp only [condition, hcf, hzf, hsf, hof]

theorem cc_rdata_of_runs {c : CondCode} {s t : State} (h : Runs (.cc c) s t) :
    t.resp.rdata = bitData (condition c s.flags) := by
  rw [runs_cc.mp h]
  rfl

/-- Settles O24: each answer is the bit of its condition, and the conditions pair and imply each other as Booleans. -/
theorem conditionCodesPairAndImply : Obligations.ConditionCodesPairAndImply := by
  constructor
  · intro s b be a ae l le g ge hb hbe ha hae hl hle hg hge
    rw [cc_rdata_of_runs (c := .b) hb, cc_rdata_of_runs (c := .be) hbe, cc_rdata_of_runs (c := .a) ha,
      cc_rdata_of_runs (c := .ae) hae, cc_rdata_of_runs (c := .l) hl, cc_rdata_of_runs (c := .le) hle,
      cc_rdata_of_runs (c := .g) hg, cc_rdata_of_runs (c := .ge) hge]
    exact ⟨bitData_complement (condition_ae _), bitData_complement (condition_a _), bitData_complement (condition_ge _),
      bitData_complement (condition_g _), bitData_imp (condition_be_of_b _), bitData_imp (condition_ae_of_a _),
      bitData_imp (condition_le_of_l _), bitData_imp (condition_ge_of_g _)⟩
  · intro c f g h
    exact condition_congr (h 0 (by simp)) (h 6 (by simp)) (h 7 (by simp)) (h 11 (by simp)) c

end Sys2Proof.Machine
end

section
/-! SUPPORT. Two runs of the engine in lockstep: what neither the instruction unit nor the host can tell apart goes the
same way, access by access. With it, what a cycle sees and what it leaves alone. -/

namespace Sys2Proof.Machine

open Sys2Proof.Claims

/-! ### Two runs in lockstep -/

/-- A relation between two states that no act inside a cycle tells apart: everything an act looks at agrees, and the
same act on both leads to related states, with the same response to the instruction unit. -/
structure Lockstep (R : State → State → Prop) : Prop where
  prog : ∀ {s s'}, R s s' → s'.prog = s.prog
  maxMemory : ∀ {s s'}, R s s' → s'.maxMemory = s.maxMemory
  inputs : ∀ {s s'}, R s s' → s'.inputs = s.inputs
  draws : ∀ {s s'}, R s s' → s'.draws = s.draws
  draw : ∀ {s s'}, R s s' → R { s with draws := s.draws + 1 } { s' with draws := s'.draws + 1 }
  take : ∀ {s s'} rest, R s s' → R { s with inputs := rest } { s' with inputs := rest }
  host : ∀ {s s'} c, R s s' → R (performHs c s).answerHs (performHs c s').answerHs
  unit : ∀ {s s'} c, R s s' → R (performIu c s) (performIu c s') ∧ (performIu c s').resp = (performIu c s).resp
  setPc : ∀ {s s'} v, R s s' → R (s.setPc v) (s'.setPc v)
  setMem : ∀ {s s'} m, R s s' → R (s.setMem m) (s'.setMem m)

namespace Lockstep

variable {R : State → State → Prop} (hR : Lockstep R) {s s' : State}
include hR

theorem pc (h : R s s') : s'.pc = s.pc := congrArg ProgState.pc (hR.prog h)

theorem mem (h : R s s') : s'.mem = s.mem := congrArg ProgState.mem (hR.prog h)

theorem mayGrow (bytes : List Byte) (h : R s s') : s'.mayGrow bytes = s.mayGrow bytes := by
  rw [State.mayGrow, hR.mem h, hR.maxMemory h]
  rfl

theorem serveHs (n : Nat) (h : R s s') : R (serveHs n s) (serveHs n s') := by
  induction n generalizing s s' with
  | zero => exact h
  | succ n ih =>
    unfold Machine.serveHs
    rw [hR.inputs h]
    split
    · next c rest _ => exact ih (hR.host c (hR.take rest h))
    · exact h

theorem hostPoint (env : Env) (h : R s s') : R (hostPoint env s) (hostPoint env s') := by
  unfold Machine.hostPoint
  rw [hR.draws h]
  exact hR.serveHs _ (hR.draws h ▸ hR.draw h)

/-- The rest of a cycle: related states and the same outcome. -/
theorem runUnit (env : Env) (p : UnitProgram) (failed : Bool) (h : R s s') :
    R (runUnit env p failed s).1 (runUnit env p failed s').1 ∧
      (Machine.runUnit env p failed s').2 = (Machine.runUnit env p failed s).2 := by
  induction p generalizing failed s s' with
  | done out => exact ⟨h, rfl⟩
  | command c next ih =>
    obtain ⟨ht, hresp⟩ := hR.unit c (hR.hostPoint env h)
    simp only [Machine.runUnit, hresp]
    exact ih _ failed ht
  | memRead addr n next ih =>
    have ht := hR.hostPoint env h
    simp only [Machine.runUnit, hR.mem ht]
    split <;> exact ih _ _ ht
  | memWrite addr n v next ih =>
    have ht := hR.hostPoint env h
    simp only [Machine.runUnit, hR.mem ht]
    split
    · exact ih _ _ (hR.setMem _ ht)
    · exact ih _ _ ht
  | readPc next ih =>
    have ht := hR.hostPoint env h
    simp only [Machine.runUnit, hR.pc ht]
    exact ih _ failed ht
  | writePc v next ih => exact ih failed (hR.setPc v (hR.hostPoint env h))
  | memGrow bytes next ih =>
    have ht := hR.hostPoint env h
    simp only [Machine.runUnit, hR.mayGrow bytes ht, hR.mem ht]
    split
    · exact ih _ _ (hR.setMem _ ht)
    · exact ih _ _ ht
  | memShrink size next ih =>
    have ht := hR.hostPoint env h
    simp only [Machine.runUnit, hR.mem ht]
    exact ih failed (hR.setMem _ ht)

/-- A whole cycle. -/
theorem cycle (env : Env) (h : R s s') :
    R (cycle env s).1 (cycle env s').1 ∧ (Machine.cycle env s').2 = (Machine.cycle env s).2 := by
  have ht := hR.hostPoint env h
  simp only [Machine.cycle]
  rw [hR.prog ht, hR.draws ht]
  exact hR.runUnit env _ false (hR.draws ht ▸ hR.draw ht)

/-- The whole loop of `EXEC`: the same count and stop reason. -/
theorem runCycles (env : Env) (hexit : ∀ {s s'} rc, R s s' → R (s.exitProgram rc) (s'.exitProgram rc))
    (hfault : ∀ {s s'} k, R s s' → R (s.captureFault k) (s'.captureFault k)) (b n : Nat) (h : R s s') :
    R (runCycles env b n s).1 (runCycles env b n s').1 ∧
      (Machine.runCycles env b n s').2 = (Machine.runCycles env b n s).2 := by
  induction b generalizing n s s' with
  | zero => exact ⟨h, rfl⟩
  | succ b ih =>
    obtain ⟨ht, hout⟩ := hR.cycle env h
    rw [runCycles_succ, runCycles_succ]
    generalize Machine.cycle env s = p, Machine.cycle env s' = p' at ht hout
    obtain ⟨t, out⟩ := p
    obtain ⟨t', out'⟩ := p'
    cases hout
    cases out with
    | goOn => exact ih (n + 1) ht
    | forfeit => exact ⟨ht, rfl⟩
    | exit rc => exact ⟨hexit rc ht, rfl⟩
    | fault k => exact ⟨hfault k ht, rfl⟩

end Lockstep

/-! ### The engine's own state -/

/-- The three parts of the engine's state that no cycle looks at, replaced. -/
def State.withEngine (x : XState) (f : Bool) (w : Word) (s : State) : State :=
  { s with xstate := x, initFailed := f, stackSize := w }

theorem withEngine_overlooked (x : XState) (f : Bool) (w : Word) : Overlooked (State.withEngine x f w) :=
  ⟨fun _ => rfl, fun _ => rfl, fun _ _ => rfl, fun _ _ _ => rfl⟩

section

variable (x : XState) (f : Bool) (w : Word)

/-- A command on port IU goes the same way whatever the engine's state is, and leaves it. -/
theorem unitCommand_withEngine (i : Instr) (s : State) :
    unitCommand i (s.withEngine x f w) = (unitCommand i s).withEngine x f w := by
  have hu := withEngine_overlooked x f w
  cases i with
  | fread slot n => exact hu.fread s slot n
  | fwrite slot bytes => exact hu.fwrite s slot bytes
  | fdopen h => exact hu.fdopen s h
  | fdclose slot => exact hu.fdclose s slot
  | ioplassign v => exact hu.ioplassign s (fun _ => rfl) (fun _ _ => rfl) v
  | _ => rfl

theorem performIu_withEngine (c : Command) (s : State) :
    performIu c (s.withEngine x f w) = (performIu c s).withEngine x f w := by
  unfold performIu
  split
  · exact unitCommand_withEngine x f w _ s
  · rfl

theorem performHs_withEngine (c : Command) (s : State) :
    performHs c (s.withEngine x f w) = (performHs c s).withEngine x f w := by
  have hu := withEngine_overlooked x f w
  unfold performHs
  split
  · exact hu.hfeed s _ _
  · exact hu.hdump s _
  · rfl
  · rfl

theorem withEngine_lockstep : Lockstep fun s s' => s' = s.withEngine x f w where
  prog := by rintro s - rfl; rfl
  maxMemory := by rintro s - rfl; rfl
  inputs := by rintro s - rfl; rfl
  draws := by rintro s - rfl; rfl
  draw := by rintro s - rfl; rfl
  take := by rintro s - rest rfl; rfl
  host := by rintro s - c rfl; rw [performHs_withEngine]; rfl
  unit := by rintro s - c rfl; rw [performIu_withEngine]; exact ⟨rfl, rfl⟩
  setPc := by rintro s - v rfl; rfl
  setMem := by rintro s - m rfl; rfl

end

theorem cycleIgnoresTheEngineState : CycleIgnoresTheEngineState := by
  intro env s t out x f w h
  obtain ⟨hstate, hout⟩ := (withEngine_lockstep x f w).cycle env (s := s) rfl
  rw [h] at hstate hout
  exact Prod.ext hstate hout

/-- What one cycle leaves of the engine's state (R220, R221). -/
structure EngineKept (s t : State) : Prop where
  xstate : t.xstate = s.xstate
  initFailed : t.initFailed = s.initFailed
  maxMemory : t.maxMemory = s.maxMemory
  stackSize : t.stackSize = s.stackSize
  fdCap : t.fdCap = s.fdCap

theorem EngineKept.trans {s t u : State} (hst : EngineKept s t) (htu : EngineKept t u) : EngineKept s u :=
  ⟨htu.xstate.trans hst.xstate, htu.initFailed.trans hst.initFailed, htu.maxMemory.trans hst.maxMemory,
    htu.stackSize.trans hst.stackSize, htu.fdCap.trans hst.fdCap⟩

theorem Frame.engineKept {s t : State} (h : Frame s t) : EngineKept s t :=
  ⟨h.xstate, h.initFailed, h.maxMemory, h.stackSize, h.slots⟩

theorem engineKept_accessClosed (env : Env) : AccessClosed env EngineKept where
  refl s := (Frame.refl s).engineKept
  trans := .trans
  draw _ := ⟨rfl, rfl, rfl, rfl, rfl⟩
  take _ _ _ _ := ⟨rfl, rfl, rfl, rfl, rfl⟩
  host c s := (performHs_frame c s).engineKept
  deliver _ := ⟨rfl, rfl, rfl, rfl, rfl⟩
  unit c s := (performIu_frame c s).engineKept
  setPc _ _ := ⟨rfl, rfl, rfl, rfl, rfl⟩
  write _ _ _ _ _ _ := ⟨rfl, rfl, rfl, rfl, rfl⟩
  grow _ _ _ := ⟨rfl, rfl, rfl, rfl, rfl⟩
  shrink _ _ := ⟨rfl, rfl, rfl, rfl, rfl⟩

theorem cycle_engineKept {env : Env} {s t : State} {out : CycleOutcome} (h : cycle env s = (t, out)) :
    EngineKept s t := by
  have hkept := (engineKept_accessClosed env).cycle_rel s
  rwa [h] at hkept

/-! ### What a call of `InsnStep` is given -/

/-- What shows of a slot: the `Live` handle that stands in it. -/
theorem viewAt_eq_some {hp : List Handle} {fd : List (Option Nat)} {i : Nat} {v : SlotView} :
    viewAt hp 0 fd i = some v ↔ ∃ h hd, fd[i]? = some (some h) ∧ hp[h]? = some hd ∧ hd.inSlot i h = v := by
  simp [viewAt, Option.bind_eq_some_iff, Option.join_eq_some_iff]

theorem unitSees : UnitSees := by
  refine fun s => ⟨rfl, rfl, rfl, rfl, fun v => ?_⟩
  show v ∈ slotViews s.hp 0 s.fd ↔ _
  simp only [mem_slotViews, viewAt_eq_some]
  constructor
  · rintro ⟨i, h, hd, hslot, hlive, rfl⟩
    exact ⟨hd, hslot, hlive, rfl, rfl, rfl, rfl, rfl⟩
  · obtain ⟨slot, h, r, w, k, a, n⟩ := v
    rintro ⟨hd, hslot, hlive, rfl, rfl, rfl, rfl, rfl⟩
    exact ⟨slot, h, hd, hslot, hlive, rfl⟩

/-- Handles with the same flags look the same in a slot. -/
theorem inSlot_congr {hd hd' : Handle} (hflags : SameFlags hd hd') (slot h : Nat) :
    hd'.inSlot slot h = hd.inSlot slot h := by
  obtain ⟨hr, hw, hk, ha, hi⟩ := hflags
  rw [Handle.inSlot, ← hr, ← hw, ← hk, ← ha, ← hi]
  rfl

/-- What shows of a slot of the first state shows of it in the second. -/
theorem viewAt_of_slotsWithin {s s' : State} (h : SlotsWithin s s') {i : Nat} {v : SlotView}
    (hv : viewAt s.hp 0 s.fd i = some v) : viewAt s'.hp 0 s'.fd i = some v := by
  obtain ⟨id, hd, hslot, hlive, rfl⟩ := viewAt_eq_some.mp hv
  obtain ⟨hd', hslot', hlive', hflags⟩ := h i id hd hslot hlive
  exact viewAt_eq_some.mpr ⟨id, hd', hslot', hlive', inSlot_congr hflags i id⟩

theorem unitSeesNoMore : UnitSeesNoMore := by
  intro s s' hregs hflags hpc hmem hin hout
  have hslots : slotViews s.hp 0 s.fd = slotViews s'.hp 0 s'.fd :=
    slotViews_congr fun i => Option.ext fun v => ⟨viewAt_of_slotsWithin hin, viewAt_of_slotsWithin hout⟩
  rw [State.prog, State.prog, hregs, hflags, hpc, hmem, hslots]

/-- Settles O37: what a call of `InsnStep` is given, two runs in lockstep, and what the single acts of a cycle keep. -/
theorem cycleKeepsTheEngineState : Obligations.CycleKeepsTheEngineState := by
  refine ⟨unitSees, unitSeesNoMore, cycleIgnoresTheEngineState, fun env s t out h => ?_⟩
  obtain ⟨hx, hf, hm, hw, hcap⟩ := cycle_engineKept h
  exact ⟨hx, hf, hm, hw, hcap⟩

end Sys2Proof.Machine
end

section
/-! SUPPORT. The loop of `EXEC`: the cycles that go on, then the outcome that ends it or the spent budget; and that the
loop does not look at the response it found. -/

namespace Sys2Proof.Machine

/-! ### Cycles that go on -/

/-- `k` cycles lead from `s` to `t`, one after another, and each of them goes on. -/
def GoesOn (env : Env) : Nat → State → State → Prop
  | 0, s, t => t = s
  | k + 1, s, t => ∃ u, cycle env s = (u, .goOn) ∧ GoesOn env k u t

section

variable {env : Env} {k : Nat} {s t : State}

theorem GoesOn.xstate (h : GoesOn env k s t) : t.xstate = s.xstate := by
  induction k generalizing s with
  | zero => exact congrArg State.xstate h
  | succ k ih =>
    obtain ⟨u, hcycle, hrest⟩ := h
    exact (ih hrest).trans (cycle_engineKept hcycle).xstate

/-- A sequence of states in which each is what a cycle that goes on left of the one before. -/
theorem goesOn_of_sequence {σ : Nat → State} (h : ∀ i < k, cycle env (σ i) = (σ (i + 1), .goOn)) :
    GoesOn env k (σ 0) (σ k) := by
  induction k generalizing σ with
  | zero => rfl
  | succ k ih => exact ⟨σ 1, h 0 (Nat.succ_pos k), ih (σ := fun i => σ (i + 1)) fun i hi => h (i + 1) (by omega)⟩

/-- The loop after its first cycles have gone on. -/
theorem GoesOn.runCycles_add (h : GoesOn env k s t) (b n : Nat) :
    runCycles env (k + b) n s = runCycles env b (n + k) t := by
  induction k generalizing s n with
  | zero =>
    cases h
    rw [Nat.zero_add, Nat.add_zero]
  | succ k ih =>
    obtain ⟨u, hcycle, hrest⟩ := h
    rw [Nat.add_right_comm, runCycles_succ, hcycle]
    dsimp only
    rw [ih hrest, Nat.add_right_comm, Nat.add_assoc]

/-- The loop when the budget is spent by cycles that go on (R223, R231). -/
theorem GoesOn.runCycles_spent (h : GoesOn env k s t) (n : Nat) : runCycles env k n s = (t, n + k, .maxCycles) :=
  h.runCycles_add 0 n

/-- The loop when there is budget for one more cycle, which counts whatever its outcome (R227). -/
theorem GoesOn.runCycles_next (h : GoesOn env k s t) {b : Nat} (hb : k < b) (n : Nat) :
    runCycles env b n s = runCycles env (b - k - 1 + 1) (n + k) t := by
  rw [← h.runCycles_add]
  congr 1
  omega

/-- All that the loop can do: every cycle of the budget goes on, or the one after the first `k` ends it. -/
theorem runCycles_cases (env : Env) (b n : Nat) (s : State) :
    (∃ t, GoesOn env b s t ∧ runCycles env b n s = (t, n + b, .maxCycles)) ∨
    ∃ k t u, k < b ∧ GoesOn env k s t ∧
      ((cycle env t = (u, .forfeit) ∧ runCycles env b n s = (u, n + k + 1, .forfeitTimeslot)) ∨
       (∃ rc, cycle env t = (u, .exit rc) ∧ runCycles env b n s = (u.exitProgram rc, n + k + 1, .terminated)) ∨
       ∃ f, cycle env t = (u, .fault f) ∧ runCycles env b n s = (u.captureFault f, n + k + 1, .error)) := by
  induction b generalizing n s with
  | zero => exact .inl ⟨s, rfl, rfl⟩
  | succ b ih =>
    rw [runCycles_succ]
    cases hc : cycle env s with
    | mk u out =>
      cases out with
      | goOn =>
        obtain ⟨t, ht, he⟩ | ⟨k, t, v, hk, ht, hend⟩ := ih (n + 1) u
        · exact .inl ⟨t, ⟨u, hc, ht⟩, he.trans (by rw [Nat.add_right_comm, Nat.add_assoc])⟩
        · rw [Nat.add_right_comm n 1 k] at hend
          exact .inr ⟨k + 1, t, v, Nat.succ_lt_succ hk, ⟨u, hc, ht⟩, hend⟩
      | forfeit => exact .inr ⟨0, s, u, Nat.succ_pos b, rfl, .inl ⟨hc, rfl⟩⟩
      | exit rc => exact .inr ⟨0, s, u, Nat.succ_pos b, rfl, .inr (.inl ⟨rc, hc, rfl⟩)⟩
      | fault f => exact .inr ⟨0, s, u, Nat.succ_pos b, rfl, .inr (.inr ⟨f, hc, rfl⟩)⟩

/-! ### `EXEC` from `Running` -/

/-- `EXEC` when the loop ends as said. -/
theorem execIn_of_runCycles {b : Word} {m : Nat} {stop : StopReason} (hx : s.xstate = .running)
    (h : runCycles env b.toNat 0 s = (t, m, stop)) :
    execIn env b s = t.answer (okTag (stopCode stop) (countData m)) := by
  rw [execIn_running b hx, h]

/-- A budget is its own count. -/
theorem countData_budget (b : Word) : countData b.toNat = b := by simp [countData]

theorem countData_add (m n : Nat) : countData (m + n) = countData m + countData n := BitVec.ofNat_add m n

/-- All that `EXEC` can do from `Running` (R223). -/
theorem execIn_running_cases (env : Env) (b : Word) {s : State} (hx : s.xstate = .running) :
    (∃ t, GoesOn env b.toNat s t ∧ execIn env b s = t.answer (okTag 1 b)) ∨
    ∃ k t u, k < b.toNat ∧ GoesOn env k s t ∧
      ((cycle env t = (u, .forfeit) ∧ execIn env b s = u.answer (okTag 2 (countData (k + 1)))) ∨
       (∃ rc, cycle env t = (u, .exit rc) ∧
         execIn env b s = (u.exitProgram rc).answer (okTag 3 (countData (k + 1)))) ∨
       ∃ f, cycle env t = (u, .fault f) ∧ execIn env b s = (u.captureFault f).answer (okTag 4 (countData (k + 1)))) := by
  obtain ⟨t, ht, he⟩ | ⟨k, t, u, hk, ht, hend⟩ := runCycles_cases env b.toNat 0 s
  · refine .inl ⟨t, ht, (execIn_of_runCycles hx he).trans ?_⟩
    rw [Nat.zero_add, countData_budget]
    rfl
  · refine .inr ⟨k, t, u, hk, ht, ?_⟩
    rw [Nat.zero_add] at hend
    obtain ⟨hc, he⟩ | ⟨rc, hc, he⟩ | ⟨f, hc, he⟩ := hend
    · exact .inl ⟨hc, execIn_of_runCycles hx he⟩
    · exact .inr (.inl ⟨rc, hc, execIn_of_runCycles hx he⟩)
    · exact .inr (.inr ⟨f, hc, execIn_of_runCycles hx he⟩)

end

/-- Settles O30, by the four ends of `execIn_running_cases`: a cycle within the budget counts without wrap-around. -/
theorem consumedCyclesAreAccounted : Obligations.ConsumedCyclesAreAccounted := by
  refine ⟨fun _ _ => rfl, ?_⟩
  rintro env b s t hx rfl
  obtain ⟨t, ht, he⟩ | ⟨k, t, u, hk, ht, hend⟩ := execIn_running_cases env b hx
  · rw [he]
    exact ⟨rfl, Nat.le_refl _, .inl ⟨rfl, rfl, ht.xstate.trans hx⟩⟩
  · have hcount : (countData (k + 1)).toNat = k + 1 := countData_toNat (by have := b.isLt; omega)
    have hle : (countData (k + 1)).toNat ≤ b.toNat := hcount.trans_le hk
    have hpos : 1 ≤ (countData (k + 1)).toNat := by omega
    obtain ⟨hc, he⟩ | ⟨rc, hc, he⟩ | ⟨f, hc, he⟩ := hend <;> rw [he]
    · exact ⟨rfl, hle, .inr (.inl ⟨rfl, hpos, (cycle_engineKept hc).xstate.trans (ht.xstate.trans hx)⟩)⟩
    · exact ⟨rfl, hle, .inr (.inr (.inl ⟨rfl, hpos, rc, rfl⟩))⟩
    · exact ⟨rfl, hle, .inr (.inr (.inr ⟨rfl, hpos, f, rfl⟩))⟩

/-- Settles O29: the sequence of states is a run of cycles that go on, and the loop is read off behind it. -/
theorem execFollowsTheOutcomes : Obligations.ExecFollowsTheOutcomes := by
  refine ⟨names_of_tableRow rfl fun _ _ => .exec, fun _ _ => rfl, fun env b s hx => execIn_notRunning b hx, ?_⟩
  intro env b σ k hx hσ
  have hgo : GoesOn env k (σ 0) (σ k) := goesOn_of_sequence hσ
  refine ⟨fun hb => ?_, fun hk u => ?_⟩
  · rw [execIn_of_runCycles hx (hb ▸ hgo.runCycles_spent 0), Nat.zero_add, ← hb, countData_budget]
    rfl
  · have hnext := hgo.runCycles_next hk 0
    rw [runCycles_succ, Nat.zero_add] at hnext
    refine ⟨fun hc => ?_, fun rc hc => ?_, fun f hc => ?_⟩ <;> rw [hc] at hnext
    · exact execIn_of_runCycles hx hnext
    · exact execIn_of_runCycles hx hnext
    · exact execIn_of_runCycles hx hnext

/-! ### The splitting law -/

/-- The second state is the first but for the response it holds. -/
def SameButResp (s s' : State) : Prop := ∃ r, s' = s.answer r

theorem SameButResp.of_eq {s s' : State} (h : s' = s) : SameButResp s s' := ⟨s.resp, h⟩

/-- A command on port IU sets the response and does not look at the old one. -/
theorem unitCommand_answer (i : Instr) (r : Response) (s : State) : unitCommand i (s.answer r) = unitCommand i s := by
  cases i <;> rfl

theorem performIu_answer (c : Command) (r : Response) (s : State) : performIu c (s.answer r) = performIu c s := by
  unfold performIu
  split
  · exact unitCommand_answer _ r s
  · rfl

theorem performHs_answer (c : Command) (r : Response) (s : State) : performHs c (s.answer r) = performHs c s := by
  unfold performHs
  split <;> rfl

theorem sameButResp_lockstep : Lockstep SameButResp where
  prog := by rintro s - ⟨r, rfl⟩; rfl
  maxMemory := by rintro s - ⟨r, rfl⟩; rfl
  inputs := by rintro s - ⟨r, rfl⟩; rfl
  draws := by rintro s - ⟨r, rfl⟩; rfl
  draw := by rintro s - ⟨r, rfl⟩; exact ⟨r, rfl⟩
  take := by rintro s - rest ⟨r, rfl⟩; exact ⟨r, rfl⟩
  host := by rintro s - c ⟨r, rfl⟩; exact .of_eq (by rw [performHs_answer])
  unit := by
    rintro s - c ⟨r, rfl⟩
    rw [performIu_answer]
    exact ⟨.of_eq rfl, rfl⟩
  setPc := by rintro s - v ⟨r, rfl⟩; exact ⟨r, rfl⟩
  setMem := by rintro s - m ⟨r, rfl⟩; exact ⟨r, rfl⟩

/-- The loop does not look at the response it finds. -/
theorem runCycles_answer (env : Env) (b n : Nat) (r : Response) (s : State) :
    SameButResp (runCycles env b n s).1 (runCycles env b n (s.answer r)).1 ∧
      (runCycles env b n (s.answer r)).2 = (runCycles env b n s).2 :=
  sameButResp_lockstep.runCycles env (by rintro s - rc ⟨r, rfl⟩; exact ⟨r, rfl⟩)
    (by rintro s - k ⟨r, rfl⟩; exact ⟨r, rfl⟩) b n ⟨r, rfl⟩

/-- The loop only adds to the count it starts from. -/
theorem runCycles_count (env : Env) (b n : Nat) (s : State) :
    runCycles env b n s = ((runCycles env b 0 s).1, n + (runCycles env b 0 s).2.1, (runCycles env b 0 s).2.2) := by
  induction b generalizing n s with
  | zero => rfl
  | succ b ih =>
    rw [runCycles_succ, runCycles_succ]
    cases cycle env s with
    | mk t out =>
      cases out with
      | goOn =>
        dsimp only
        rw [ih (n + 1) t, ih (0 + 1) t, Nat.zero_add, Nat.add_assoc]
      | forfeit | exit | fault => rw [Nat.zero_add]

/-- `EXEC` issued after the first cycles have gone on, whatever was answered meanwhile. -/
theorem execIn_after {env : Env} {s t : State} {a b : Word} (hx : s.xstate = .running)
    (hsum : (a + b).toNat = a.toNat + b.toNat) (ht : GoesOn env a.toNat s t) (r : Response) :
    execIn env (a + b) s =
      (execIn env b (t.answer r)).answer
        (okTag (execIn env b (t.answer r)).resp.rtag (a + (execIn env b (t.answer r)).resp.rdata)) := by
  have hxt : (t.answer r).xstate = .running := ht.xstate.trans hx
  obtain ⟨⟨q, hstate⟩, hanswer⟩ := runCycles_answer env b.toNat 0 r t
  rw [execIn_running _ hx, execIn_running _ hxt, hsum, ht.runCycles_add, Nat.zero_add, runCycles_count, hanswer, hstate,
    countData_add, countData_budget]
  rfl

/-- Settles O31: `MaxCycles` means that all of `a` went on, and the loop goes on from there. -/
theorem execSplits : Obligations.ExecSplits := by
  intro env a b s hx hlt htag
  have hsum : (a + b).toNat = a.toNat + b.toNat := BitVec.toNat_add_of_lt hlt
  obtain ⟨t, ht, he⟩ | ⟨k, t, u, -, -, ⟨-, he⟩ | ⟨rc, -, he⟩ | ⟨f, -, he⟩⟩ := execIn_running_cases env a hx <;>
    rw [he] at htag ⊢
  · exact execIn_after hx hsum ht _
  · cases htag
  · cases htag
  · cases htag

end Sys2Proof.Machine
end

section
/-! SUPPORT. The execution state: how a step changes it, who refuses to change it, and the commands that read it. -/

namespace Sys2Proof.Machine

open Sys2Proof.Claims

/-- What an `EXEC` makes of the execution state (R229). -/
theorem execIn_xstate_cases (env : Env) (b : Word) (s : State) :
    (execIn env b s).xstate = s.xstate ∨
    (s.xstate = .running ∧
      ((∃ rc, (execIn env b s).xstate = .terminated rc) ∨ ∃ k, (execIn env b s).xstate = .error k)) := by
  by_cases hx : s.xstate = .running
  · obtain ⟨t, ht, he⟩ | ⟨k, t, u, -, ht, ⟨hc, he⟩ | ⟨rc, -, he⟩ | ⟨f, -, he⟩⟩ := execIn_running_cases env b hx <;>
      rw [he]
    · exact .inl ht.xstate
    · exact .inl ((cycle_engineKept hc).xstate.trans ht.xstate)
    · exact .inr ⟨hx, .inl ⟨rc, rfl⟩⟩
    · exact .inr ⟨hx, .inr ⟨f, rfl⟩⟩
  · rw [execIn_notRunning b hx]
    exact .inl rfl

/-- What an `INIT` makes of the execution state (R229). -/
theorem initIn_xstate_cases (env : Env) (bytes : List Byte) (s : State) :
    (initIn env bytes s).xstate = s.xstate ∨
    (s.xstate = .uninitialized ∧ s.initFailed = false ∧ (initIn env bytes s).xstate = .running) := by
  obtain ⟨-, he⟩ | ⟨ops, -, ⟨-, he⟩ | ⟨-, -, he⟩ | ⟨r, hx, hclear, -, -, he⟩⟩ := initIn_cases env bytes s <;> rw [he]
  · exact .inl rfl
  · exact .inl rfl
  · exact .inl rfl
  · exact .inr ⟨hx, hclear, rfl⟩

/-- Settles O35: a step serves one input, and of the commands only `INIT` and `EXEC` leave the frame. -/
theorem executionStateTransitions : Obligations.ExecutionStateTransitions := by
  intro s t hstep
  obtain ⟨-, rfl⟩ | ⟨c, rest, u, hi, hu, rfl⟩ | ⟨c, rest, hi, rfl⟩ | ⟨rest, hi, rfl⟩ := step_cases hstep
  · exact .inl rfl
  · cases hc : decode c with
    | error e =>
      simp only [performHc, hc] at hu
      cases hu
      exact .inl rfl
    | ok i =>
      simp only [performHc, hc] at hu
      obtain ⟨bytes, rfl, rfl⟩ | ⟨b, rfl, rfl⟩ | ⟨hframe, -⟩ := exec_cases hu
      · obtain hsame | ⟨hx, hclear, hrun⟩ := initIn_xstate_cases Config.env bytes { s with inputs := rest }
        · exact .inl hsame
        · exact .inr (.inr (.inl ⟨c, rest, bytes, hi, hc, hx, hclear, hrun⟩))
      · obtain hsame | ⟨hx, hend⟩ := execIn_xstate_cases Config.env b { s with inputs := rest }
        · exact .inl hsame
        · exact .inr (.inr (.inr ⟨c, rest, b, hi, hc, hx, hend⟩))
      · exact .inl hframe.xstate
  · exact .inl (performHs_frame c { s with inputs := rest }).xstate
  · exact .inr (.inl ⟨rest, hi, rfl⟩)

/-- Settles O28: of the cases of `INIT` only the refused one has this state. -/
theorem initOnlyFromFreshReset : Obligations.InitOnlyFromFreshReset := by
  intro bytes ops s hops hstate
  show Host.Outcome.next (initIn Config.env bytes s) = _
  have hinitialized (hx : s.xstate = .uninitialized) (hclear : s.initFailed = false) : False := by
    simp [hx, hclear] at hstate
  obtain ⟨hnone, -⟩ | ⟨ops', -, ⟨-, he⟩ | ⟨hx, hclear, -⟩ | ⟨r, hx, hclear, -⟩⟩ := initIn_cases Config.env bytes s
  · rw [hops] at hnone
    cases hnone
  · rw [he]
    rfl
  · exact (hinitialized hx hclear).elim
  · exact (hinitialized hx hclear).elim

/-- Settles O33: three rows of the tables, and the answer of each in each of the four execution states. -/
theorem stateInspection : Obligations.StateInspection := by
  refine ⟨names_of_tableRow rfl fun _ _ => .stateget, names_of_tableRow rfl fun _ _ => .errget,
    names_of_tableRow rfl fun _ _ => .retget, fun s => ?_⟩
  have answers {r r' : Response} (h : r = r') : (.next (s.answer r) : Answer) = .next { s with resp := r' } := h ▸ rfl
  refine ⟨answers ?_, answers ?_, answers ?_⟩ <;>
    cases s.xstate with
    | uninitialized | running | terminated | error => rfl

end Sys2Proof.Machine
end

section
/-! SUPPORT. Which commands put another handle into an occupied slot. -/

namespace Sys2Proof.Machine

open Sys2Proof.Claims

/-- No slot goes from one handle to another: one that is occupied before and after holds the same id. -/
def SlotsStay (s t : State) : Prop :=
  ∀ slot h h' : Nat, s.fd[slot]? = some (some h) → t.fd[slot]? = some (some h') → h' = h

theorem SlotsStay.of_same {s t : State} (hfd : t.fd = s.fd) : SlotsStay s t := by
  intro slot h h' hs ht
  rw [hfd, hs] at ht
  cases ht
  rfl

/-- A slot emptied, or one that was empty filled. -/
theorem SlotsStay.setSlot {s : State} {slot : Nat} {entry : Option Nat}
    (hentry : entry = none ∨ s.fd[slot]? = some none) : SlotsStay s (s.setSlot slot entry) := by
  intro k h h' hs ht
  rw [State.setSlot_fd] at ht
  by_cases hk : slot = k
  · subst hk
    obtain rfl | hempty := hentry
    · rw [List.getElem?_set_self (List.getElem?_eq_some_iff.mp hs).1] at ht
      cases ht
    · rw [hempty] at hs
      cases hs
  · rw [List.getElem?_set_ne hk, hs] at ht
    cases ht
    rfl

theorem hnew_fd (caps : BitVec 5) (s : State) : (hnew caps s).fd = s.fd := by
  unfold hnew hnewIn
  split <;> rfl

theorem fread_fd (slot : BitVec 16) (n : Word) (s : State) : (fread slot n s).fd = s.fd := by
  unfold fread
  split
  · rfl
  · split <;> rfl

theorem fwrite_fd (slot : BitVec 16) (bytes : List Byte) (s : State) : (fwrite slot bytes s).fd = s.fd := by
  unfold fwrite
  split
  · rfl
  · split <;> rfl

theorem hfeed_fd (hid : BitVec 16) (bytes : List Byte) (s : State) : (hfeed hid bytes s).fd = s.fd := by
  unfold hfeed
  split <;> rfl

theorem hdump_fd (hid : BitVec 16) (s : State) : (hdump hid s).fd = s.fd := by
  unfold hdump
  split <;> rfl

theorem ioplassign_fd (w : Word) (s : State) : (ioplassign w s).fd = s.fd := by
  unfold ioplassign
  split <;> rfl

/-- `FDOPEN` fills an empty slot (R271). -/
theorem fdopen_slotsStay (w : Word) (s : State) : SlotsStay s (fdopen w s) := by
  unfold fdopen
  split
  · exact .of_same rfl
  · split
    · exact .of_same rfl
    · rename_i slot hslot
      exact SlotsStay.setSlot (.inr (emptySlot?_eq_some.mp hslot).1)

/-- `FDCLOSE` empties a slot (R272). -/
theorem fdclose_slotsStay (slot : BitVec 16) (s : State) : SlotsStay s (fdclose slot s) := by
  unfold fdclose
  split
  · exact SlotsStay.setSlot (.inl rfl)
  · exact .of_same rfl
  · exact .of_same rfl

/-- An `INIT` that succeeds leaves every slot empty (R222). -/
theorem initIn_slotsStay (env : Env) (bytes : List Byte) (s : State) : SlotsStay s (initIn env bytes s) := by
  obtain ⟨-, he⟩ | ⟨ops, -, ⟨-, he⟩ | ⟨-, -, he⟩ | ⟨r, -, -, -, -, he⟩⟩ := initIn_cases env bytes s <;> rw [he]
  · exact .of_same rfl
  · exact .of_same rfl
  · exact .of_same rfl
  · intro slot h h' _ ht
    have hempty := List.eq_of_mem_replicate (List.mem_of_getElem? ht)
    cases hempty

/-- A command on port IU (R221). -/
theorem unitCommand_slotsStay (i : Instr) (s : State) : SlotsStay s (unitCommand i s) := by
  cases i with
  | ioplassign v => exact .of_same (ioplassign_fd v s)
  | fread slot n => exact .of_same (fread_fd slot n s)
  | fwrite slot bytes => exact .of_same (fwrite_fd slot bytes s)
  | fdopen w => exact fdopen_slotsStay w s
  | fdclose slot => exact fdclose_slotsStay slot s
  | _ => exact .of_same rfl

/-- A command is `INSTALL`, `STDIO` or `EXEC`, or lets the slots stay (R273). -/
theorem exec_slotsStay {i : Instr} {s t : State} (h : exec i s = .next t) :
    ((∃ k w, i = .install k w) ∨ i = .stdio ∨ ∃ b, i = .exec b) ∨ SlotsStay s t := by
  cases hu : Instr.hostOnly i with
  | false =>
    rw [exec_eq_unitCommand s hu] at h
    cases h
    exact .inr (unitCommand_slotsStay i s)
  | true =>
    cases i with
    | install slot w => exact .inl (.inl ⟨slot, w, rfl⟩)
    | stdio => exact .inl (.inr (.inl rfl))
    | exec b => exact .inl (.inr (.inr ⟨b, rfl⟩))
    | init bytes => cases h; exact .inr (initIn_slotsStay Config.env bytes s)
    | stateget | errget | retget => cases h; exact .inr (.of_same rfl)
    | hnew caps => cases h; exact .inr (.of_same (hnew_fd caps s))
    | hfeed hid bytes => cases h; exact .inr (.of_same (hfeed_fd hid bytes s))
    | hdump hid => cases h; exact .inr (.of_same (hdump_fd hid s))
    | _ => cases hu

/-- Settles O52: every command but those named lets the slots stay. -/
theorem slotReuseNeedsAnEmptySlot : Obligations.SlotReuseNeedsAnEmptySlot := by
  refine ⟨fun i s t slot h h' hexec hs ht hne => ?_, fun i s => unitCommand_slotsStay i s⟩
  exact (exec_slotsStay hexec).resolve_right fun hstay => hne (hstay slot h h' hs ht)

end Sys2Proof.Machine
end

section
/-! SUPPORT. The file handle table: the words of its commands, each command in each of its cases, and the echo of one
handle into another. -/

namespace Sys2Proof.Machine

open Sys2Proof.Claims

/-! ### Words with an index, handles by id, and what a slot holds -/

/-- A row of the tables is named by the word of its three fields, whatever the operands hold (R83). -/
theorem names_of_indexedRow {word : Nat} {op sel : BitVec 8} {idx : BitVec 16} {mk : Word → List Byte → Instr}
    (hword : word = op.toNat * 2 ^ 24 + sel.toNat * 2 ^ 16 + idx.toNat)
    (hrow : ∀ wdata payload, TableRow wdata payload op sel idx (mk wdata payload)) : Names word mk := by
  subst hword
  exact fun wdata payload => (hrow wdata payload).decode_packFields

theorem handle?_of_free {s : State} {h : Nat} (hfree : s.hp.length ≤ h) : s.handle? h = none :=
  List.getElem?_eq_none hfree

theorem handle?_of_live {s : State} {h : Nat} (hlive : h < s.hp.length) : ∃ hd, s.handle? h = some hd :=
  ⟨_, List.getElem?_eq_getElem hlive⟩

theorem slotHandle?_of_noFile {s : State} {slot : BitVec 16} (h : NoFile s slot) : s.slotHandle? slot.toNat = none := by
  refine slotHandle?_eq_none.mpr fun h' _ hfd _ => ?_
  obtain hlen | hempty := h
  · exact absurd (List.getElem?_eq_some_iff.mp hfd).1 (Nat.not_lt.mpr hlen)
  · rw [hempty] at hfd
    cases hfd

theorem slotHandle?_of_holds {s : State} {slot : BitVec 16} {h : Nat} {hd : Handle} (hh : Holds s slot h hd) :
    s.slotHandle? slot.toNat = some (h, hd) :=
  slotHandle?_eq_some.mpr hh

section

variable {s : State} {slot : BitVec 16} {h : Nat} {hd : Handle}

theorem holds_setHandle_same (hh : Holds s slot h hd) (hd' : Handle) : Holds (s.setHandle h hd') slot h hd' := by
  obtain ⟨hslot, hlive⟩ := hh
  exact ⟨hslot, by rw [State.setHandle_hp, List.getElem?_set_self (List.getElem?_eq_some_iff.mp hlive).1]⟩

theorem holds_setHandle_other (hh : Holds s slot h hd) {k : Nat} (hne : k ≠ h) (hd' : Handle) :
    Holds (s.setHandle k hd') slot h hd := by
  obtain ⟨hslot, hlive⟩ := hh
  exact ⟨hslot, by rw [State.setHandle_hp, List.getElem?_set_ne hne, hlive]⟩

end

/-! ### Creating handles -/

theorem newEntry_of_lt {n : Nat} {hd : Handle} {hp : List Handle} (h : hp.length < n) :
    newEntry n hd hp = some (hp.length, hp ++ [hd]) :=
  newEntry_eq_some.mpr ⟨h, rfl, rfl⟩

theorem hnewIn_of_full {n : Nat} {caps : BitVec 5} {s : State} (h : n ≤ s.hp.length) :
    hnewIn n caps s = s.answer (errorResponse .noHandle) := by
  simp only [hnewIn, newEntry_eq_none.mpr h]

theorem hnewIn_of_room {n : Nat} {caps : BitVec 5} {s : State} (h : s.hp.length < n) :
    hnewIn n caps s = { s with hp := s.hp ++ [newHandle caps] }.answer (okData (countData s.hp.length)) := by
  simp only [hnewIn, newEntry_of_lt h]

/-- Settles O45: the lowest `Free` id is the number of `Live` entries. -/
theorem hnewCreatesAHandle : Obligations.HnewCreatesAHandle := by
  refine ⟨fun caps => ?_, fun caps s => ⟨fun hfull => ?_, fun hroom => ?_⟩⟩
  · have hsel : (caps.setWidth 8).toNat = caps.toNat := BitVec.toNat_setWidth_of_le (by decide)
    exact names_of_tableRow (op := 0x41#8) (sel := caps.setWidth 8) (by rw [hsel]; rfl) fun _ _ => .hnew caps
  · exact congrArg Host.Outcome.next (hnewIn_of_full hfull)
  · exact congrArg Host.Outcome.next (hnewIn_of_room hroom)

/-- `STDIO` with fewer than three slots (R262). -/
theorem stdioIn_of_short {n : Nat} {s : State} (h : s.fd.length < 3) :
    stdioIn n s = s.answer (errorResponse .badSlot) := by
  rw [stdioIn, State.fdCap, if_pos h]

/-- `STDIO` with fewer than three `Free` entries: the first, the second or the third handle finds none (R262). -/
theorem stdioIn_of_full {n : Nat} {s : State} (hslots : 3 ≤ s.fd.length) (hfull : n < s.hp.length + 3) :
    stdioIn n s = s.answer (errorResponse .noHandle) := by
  rw [stdioIn, State.fdCap, if_neg (Nat.not_lt.mpr hslots)]
  split
  · rfl
  · next a hp1 ha =>
      obtain ⟨-, -, rfl⟩ := newEntry_eq_some.mp ha
      split
      · rfl
      · next b hp2 hb =>
          obtain ⟨-, -, rfl⟩ := newEntry_eq_some.mp hb
          have hnone : newEntry n (newHandle 0b01010#5)
              ((s.hp ++ [newHandle 0b10001#5]) ++ [newHandle 0b01010#5]) = none :=
            newEntry_eq_none.mpr (by simp only [List.length_append, List.length_singleton]; omega)
          rw [hnone]

/-- The three standard slots filled, whatever they held. -/
theorem set_first_three {fd : List (Option Nat)} (h : 3 ≤ fd.length) (a b c : Option Nat) :
    ((fd.set 0 a).set 1 b).set 2 c = a :: b :: c :: fd.drop 3 := by
  match fd, h with
  | _ :: _ :: _ :: _, _ => rfl

/-- `STDIO` with room in the table and the pool (R262). -/
theorem stdioIn_of_room {n : Nat} {s : State} (hslots : 3 ≤ s.fd.length) (hroom : s.hp.length + 3 ≤ n) :
    stdioIn n s = { s with
      hp := s.hp ++ [newHandle 0b10001#5, newHandle 0b01010#5, newHandle 0b01010#5]
      fd := some s.hp.length :: some (s.hp.length + 1) :: some (s.hp.length + 2) :: s.fd.drop 3 }.answer
        (okData (0#16 ++ BitVec.ofNat 16 (s.hp.length + 2) ++ BitVec.ofNat 16 (s.hp.length + 1) ++
          BitVec.ofNat 16 s.hp.length)) := by
  have ha : newEntry n (newHandle 0b10001#5) s.hp = some (s.hp.length, s.hp ++ [newHandle 0b10001#5]) :=
    newEntry_of_lt (by omega)
  have hb : newEntry n (newHandle 0b01010#5) (s.hp ++ [newHandle 0b10001#5]) =
      some (s.hp.length + 1, s.hp ++ [newHandle 0b10001#5, newHandle 0b01010#5]) :=
    newEntry_eq_some.mpr ⟨by rw [List.length_append, List.length_singleton]; omega, by simp, by simp⟩
  have hc : newEntry n (newHandle 0b01010#5) (s.hp ++ [newHandle 0b10001#5, newHandle 0b01010#5]) =
      some (s.hp.length + 2, s.hp ++ [newHandle 0b10001#5, newHandle 0b01010#5, newHandle 0b01010#5]) :=
    newEntry_eq_some.mpr ⟨by simp only [List.length_append, List.length_cons, List.length_nil]; omega, by simp, by simp⟩
  rw [stdioIn, State.fdCap, if_neg (Nat.not_lt.mpr hslots)]
  simp only [ha, hb, hc, set_first_three hslots]

/-- Settles O44: `stdioIn` by the room in the table, then by the room in the pool. -/
theorem stdioWiresThreeHandles : Obligations.StdioWiresThreeHandles := by
  refine ⟨names_of_tableRow (op := 0x40#8) (sel := 0#8) rfl fun _ _ => .stdio,
    fun s => ⟨fun hshort => ?_, fun hslots hfull => ?_, fun hslots hroom a ha => ?_⟩⟩
  · exact congrArg Host.Outcome.next (stdioIn_of_short hshort)
  · exact congrArg Host.Outcome.next (stdioIn_of_full hslots hfull)
  · subst ha
    exact congrArg Host.Outcome.next (stdioIn_of_room hslots hroom)

/-! ### Slots filled and emptied -/

section

variable {s : State} {slot : BitVec 16} {w : Word}

theorem install_of_noSlot (h : s.fd.length ≤ slot.toNat) : install slot w s = s.answer (errorResponse .badSlot) := by
  rw [install, State.fdCap, if_pos h]

theorem install_of_free (hslot : slot.toNat < s.fd.length) (hfree : s.hp.length ≤ handleOperand w) :
    install slot w s = s.answer (errorResponse .badHandle) := by
  simp only [install, State.fdCap, if_neg (Nat.not_le.mpr hslot), handle?_of_free hfree]

theorem install_of_live (hslot : slot.toNat < s.fd.length) (hlive : handleOperand w < s.hp.length) :
    install slot w s = (s.setSlot slot.toNat (some (handleOperand w))).answer {} := by
  obtain ⟨hd, hlookup⟩ := handle?_of_live hlive
  simp only [install, State.fdCap, if_neg (Nat.not_le.mpr hslot), hlookup]

theorem fdopen_of_free (hfree : s.hp.length ≤ handleOperand w) : fdopen w s = s.answer (errorResponse .badHandle) := by
  simp only [fdopen, handle?_of_free hfree]

theorem fdopen_of_tableFull (hlive : handleOperand w < s.hp.length) (hfull : none ∉ s.fd) :
    fdopen w s = s.answer (errorResponse .tableFull) := by
  obtain ⟨hd, hlookup⟩ := handle?_of_live hlive
  simp only [fdopen, hlookup, emptySlot?_eq_none.mpr hfull]

theorem fdopen_of_emptySlot {k : Nat} (hlive : handleOperand w < s.hp.length) (hempty : s.emptySlot? = some k) :
    fdopen w s = (s.setSlot k (some (handleOperand w))).answer (okData (countData k)) := by
  obtain ⟨hd, hlookup⟩ := handle?_of_live hlive
  simp only [fdopen, hlookup, hempty]

theorem fdclose_of_noFile (h : NoFile s slot) : fdclose slot s = s.answer (errorResponse .badSlot) := by
  obtain hlen | hempty := h
  · simp only [fdclose, List.getElem?_eq_none hlen]
  · simp only [fdclose, hempty]

theorem fdclose_of_occupied {h : Nat} (hfd : s.fd[slot.toNat]? = some (some h)) :
    fdclose slot s = (s.setSlot slot.toNat none).answer {} := by
  simp only [fdclose, hfd]

end

/-- Settles O46: `install` by its two checks, in their order. -/
theorem installReplacesASlot : Obligations.InstallReplacesASlot := by
  refine ⟨fun slot => names_of_indexedRow (op := 0x42#8) (sel := 0#8) rfl fun _ _ => .install slot, fun slot w s => ?_⟩
  rw [← handleOperand_eq]
  exact ⟨fun hslot => congrArg Host.Outcome.next (install_of_noSlot hslot),
    fun hslot hfree => congrArg Host.Outcome.next (install_of_free hslot hfree),
    fun hslot hlive => congrArg Host.Outcome.next (install_of_live hslot hlive)⟩

/-- Settles O50: `fdopen` by its two checks, `fdclose` by what the slot holds. -/
theorem fdopenTakesTheLeastEmptySlot : Obligations.FdopenTakesTheLeastEmptySlot := by
  refine ⟨names_of_tableRow (op := 0x47#8) (sel := 0#8) rfl fun _ _ => .fdopen,
    fun slot => names_of_indexedRow (op := 0x48#8) (sel := 0#8) rfl fun _ _ => .fdclose slot,
    fun w s => ?_, fun slot s => ⟨fun hnone => ?_, fun h hfd => ?_⟩⟩
  · rw [← handleOperand_eq]
    exact ⟨fun hfree => congrArg Host.Outcome.next (fdopen_of_free hfree),
      fun hlive hfull => congrArg Host.Outcome.next (fdopen_of_tableFull hlive hfull),
      fun hlive k hk hleast => congrArg Host.Outcome.next (fdopen_of_emptySlot hlive
        (emptySlot?_eq_some.mpr ⟨hk, hleast⟩))⟩
  · exact congrArg Host.Outcome.next (fdclose_of_noFile hnone)
  · exact congrArg Host.Outcome.next (fdclose_of_occupied hfd)

/-! ### The buffer of a handle by its id -/

section

variable {s : State} {hid : BitVec 16} {bytes : List Byte} {hd : Handle}

theorem hfeed_of_free (hfree : s.hp.length ≤ hid.toNat) : hfeed hid bytes s = s.answer (errorResponse .badHandle) := by
  simp only [hfeed, handle?_of_free hfree]

theorem hfeed_of_live (hlive : s.handle? hid.toNat = some hd) :
    hfeed hid bytes s = (s.setHandle hid.toNat (feed bytes hd)).answer (okData (countData bytes.length)) := by
  simp only [hfeed, hlive]

theorem hdump_of_free (hfree : s.hp.length ≤ hid.toNat) : hdump hid s = s.answer (errorResponse .badHandle) := by
  simp only [hdump, handle?_of_free hfree]

theorem hdump_of_live (hlive : s.handle? hid.toNat = some hd) :
    hdump hid s = s.answer { rdata := countData hd.buf.length, rpayload := hd.buf } := by
  simp only [hdump, hlive]

end

/-- Settles O49: `hfeed` and `hdump` by whether the id is `Live`. -/
theorem hfeedAndHdumpByHandleId : Obligations.HfeedAndHdumpByHandleId := by
  refine ⟨fun hid => names_of_indexedRow (op := 0x45#8) (sel := 0#8) rfl fun _ _ => .hfeed hid,
    fun hid => names_of_indexedRow (op := 0x46#8) (sel := 0#8) rfl fun _ _ => .hdump hid,
    fun hid bytes s => ⟨fun hfree => ⟨?_, ?_⟩, fun hd hlive => ⟨?_, ?_⟩⟩⟩
  · exact congrArg Host.Outcome.next (hfeed_of_free hfree)
  · exact congrArg Host.Outcome.next (hdump_of_free hfree)
  · exact congrArg Host.Outcome.next (hfeed_of_live hlive)
  · exact congrArg Host.Outcome.next (hdump_of_live hlive)

/-! ### Reading through a slot -/

section

variable {s : State} {slot : BitVec 16} {n : Word} {h : Nat} {hd : Handle}

theorem fread_of_noFile (hnone : NoFile s slot) : fread slot n s = s.answer (errorResponse .badSlot) := by
  simp only [fread, slotHandle?_of_noFile hnone]

theorem fread_of_unreadable (hh : Holds s slot h hd) (hr : hd.readable = false) :
    fread slot n s = s.answer (errorResponse .permissionDenied) := by
  simp only [fread, slotHandle?_of_holds hh, hr, Bool.false_eq_true, if_false]

theorem fread_of_readable (hh : Holds s slot h hd) (hr : hd.readable = true) :
    fread slot n s = (s.setHandle h (readAdvance n hd)).answer
      { rdata := countData (readCount n hd), rpayload := readData n hd } := by
  simp only [fread, slotHandle?_of_holds hh, hr, if_true]

theorem fread_rpayload (hh : Holds s slot h hd) (hr : hd.readable = true) :
    (fread slot n s).resp.rpayload = readData n hd := by
  rw [fread_of_readable hh hr, State.answer_resp]

theorem holds_fread_same (hh : Holds s slot h hd) (hr : hd.readable = true) :
    Holds (fread slot n s) slot h (readAdvance n hd) := by
  rw [fread_of_readable hh hr]
  exact holds_setHandle_same hh _

theorem holds_fread_other {slot' : BitVec 16} {h' : Nat} {hd' : Handle} (hh : Holds s slot h hd)
    (hr : hd.readable = true) (hh' : Holds s slot' h' hd') (hne : h ≠ h') : Holds (fread slot n s) slot' h' hd' := by
  rw [fread_of_readable hh hr]
  exact holds_setHandle_other hh' hne _

/-- The bytes a read takes, of a buffer cut at the cursor and behind them (R266). -/
theorem readData_of_split {past data left : List Byte} (hbuf : hd.buf = past ++ data ++ left)
    (hpos : hd.pos.toNat = past.length) (hlen : data.length = min n.toNat (data.length + left.length)) :
    readCount n hd = data.length ∧ readData n hd = data := by
  have hcount : readCount n hd = data.length := by
    rw [readCount, hbuf, hpos]
    simp only [List.length_append]
    omega
  refine ⟨hcount, ?_⟩
  rw [readData, hcount, hbuf, hpos, List.append_assoc, List.drop_left, List.take_left]

end

/-- Settles O47: `fread` by what the slot holds and whether it is readable. -/
theorem freadTakesFromTheCursor : Obligations.FreadTakesFromTheCursor := by
  refine ⟨fun slot => names_of_indexedRow (op := 0x43#8) (sel := 0#8) rfl fun _ _ => .fread slot,
    fun slot n s => ⟨fun hnone => ?_, fun h hd hh => ⟨fun hr => ?_, fun hr past data left hbuf hpos hlen => ?_⟩⟩⟩
  · exact congrArg Host.Outcome.next (fread_of_noFile hnone)
  · exact congrArg Host.Outcome.next (fread_of_unreadable hh hr)
  · obtain ⟨hcount, hdata⟩ := readData_of_split hbuf hpos hlen
    refine (congrArg Host.Outcome.next (fread_of_readable hh hr)).trans ?_
    rw [readAdvance, hcount, hdata]
    rfl

/-! ### Writing through a slot -/

section

variable {s : State} {slot : BitVec 16} {bytes : List Byte} {h : Nat} {hd : Handle}

theorem fwrite_of_noFile (hnone : NoFile s slot) : fwrite slot bytes s = s.answer (errorResponse .badSlot) := by
  simp only [fwrite, slotHandle?_of_noFile hnone]

theorem fwrite_of_unwritable (hh : Holds s slot h hd) (hw : hd.writable = false) :
    fwrite slot bytes s = s.answer (errorResponse .permissionDenied) := by
  simp only [fwrite, slotHandle?_of_holds hh, hw, Bool.false_eq_true, if_false]

theorem fwrite_of_writable (hh : Holds s slot h hd) (hw : hd.writable = true) :
    fwrite slot bytes s = (s.setHandle h (writeThrough bytes hd)).answer (okData (countData bytes.length)) := by
  simp only [fwrite, slotHandle?_of_holds hh, hw, if_true]

theorem holds_fwrite_same (hh : Holds s slot h hd) (hw : hd.writable = true) :
    Holds (fwrite slot bytes s) slot h (writeThrough bytes hd) := by
  rw [fwrite_of_writable hh hw]
  exact holds_setHandle_same hh _

theorem holds_fwrite_other {slot' : BitVec 16} {h' : Nat} {hd' : Handle} (hh : Holds s slot h hd)
    (hw : hd.writable = true) (hh' : Holds s slot' h' hd') (hne : h ≠ h') :
    Holds (fwrite slot bytes s) slot' h' hd' := by
  rw [fwrite_of_writable hh hw]
  exact holds_setHandle_other hh' hne _

/-- An overwrite of a buffer cut at the cursor and behind the bytes that are hit (R267). -/
theorem writeThrough_of_split {past hit left : List Byte} (ha : hd.appendonly = false)
    (hbuf : hd.buf = past ++ hit ++ left) (hpos : hd.pos.toNat = past.length)
    (hlen : hit.length = min bytes.length (hit.length + left.length)) :
    writeThrough bytes hd = { hd with buf := past ++ bytes ++ left, pos := hd.pos + countData bytes.length } := by
  have htake : hd.buf.take hd.pos.toNat = past := by
    rw [hbuf, hpos, List.append_assoc, List.take_left]
  have hend : min (hd.pos.toNat + bytes.length) hd.buf.length = (past ++ hit).length := by
    rw [hbuf, hpos]
    simp only [List.length_append]
    omega
  have hdrop : hd.buf.drop (past ++ hit).length = left := by
    rw [hbuf, List.drop_left]
  rw [writeThrough_overwrite ha, htake, hend, hdrop]

end

/-- Settles O48: `fwrite` by what the slot holds, whether it is writable and whether it is append-only. -/
theorem fwriteStoresThroughTheCursor : Obligations.FwriteStoresThroughTheCursor := by
  refine ⟨fun slot => names_of_indexedRow (op := 0x44#8) (sel := 0#8) rfl fun _ payload => .fwrite slot,
    fun slot bytes s => ⟨fun hnone => ?_, fun h hd hh => ⟨fun hw => ?_, fun hw ha => ?_,
      fun hw ha past hit left hbuf hpos hlen => ?_⟩⟩⟩
  · exact congrArg Host.Outcome.next (fwrite_of_noFile hnone)
  · exact congrArg Host.Outcome.next (fwrite_of_unwritable hh hw)
  · refine (congrArg Host.Outcome.next (fwrite_of_writable hh hw)).trans ?_
    rw [writeThrough_append ha, List.length_append]
    rfl
  · refine (congrArg Host.Outcome.next (fwrite_of_writable hh hw)).trans ?_
    rw [writeThrough_of_split ha hbuf hpos hlen]
    rfl

/-! ### The echo law -/

theorem runs_fread {slot : BitVec 16} {n : Word} {s t : State} : Runs (.fread slot n) s t ↔ t = fread slot n s :=
  runs_iff rfl

theorem runs_fwrite {slot : BitVec 16} {bytes : List Byte} {s t : State} :
    Runs (.fwrite slot bytes) s t ↔ t = fwrite slot bytes s :=
  runs_iff rfl

/-- The bytes of a handle that a read has not taken yet. -/
def Handle.unread (hd : Handle) : List Byte := hd.buf.drop hd.pos.toNat

/-- In a buffer below 2^64 bytes the cursor moves over what is read and does not wrap (log 16). -/
theorem readAdvance_pos {n : Word} {hd : Handle} (hinv : hd.Inv) (hlen : hd.buf.length < 2 ^ 64) :
    (readAdvance n hd).pos.toNat = hd.pos.toNat + readCount n hd := by
  have hle : hd.pos.toNat ≤ hd.buf.length := hinv
  have hcount := readCount_le_left n hd
  show (hd.pos + countData (readCount n hd)).toNat = _
  rw [BitVec.toNat_add, countData_toNat (readCount_lt n hd), Nat.mod_eq_of_lt (by omega)]

/-- A read splits what was unread into what it returns and what is unread afterwards (R266). -/
theorem readData_append_unread {n : Word} {hd : Handle} (hinv : hd.Inv) (hlen : hd.buf.length < 2 ^ 64) :
    readData n hd ++ (readAdvance n hd).unread = hd.unread := by
  have hrest : (readAdvance n hd).unread = hd.unread.drop (readCount n hd) := by
    rw [Handle.unread, readAdvance_pos hinv hlen, Handle.unread, List.drop_drop]
    rfl
  rw [hrest]
  exact List.take_append_drop (readCount n hd) hd.unread

/-- A read with room for a byte returns none only when nothing is unread (R266). -/
theorem unread_eq_nil_of_readData {n : Word} {hd : Handle} (hn : n ≠ 0) (hnone : readData n hd = []) :
    hd.unread = [] := by
  have hroom : 0 < n.toNat := Nat.pos_of_ne_zero fun h0 => hn (BitVec.eq_of_toNat_eq h0)
  have hcount : min n.toNat (hd.buf.length - hd.pos.toNat) = 0 :=
    (readData_length n hd).symm.trans (List.length_eq_zero_iff.mpr hnone)
  exact List.drop_eq_nil_iff.mpr (by omega)

/-- Settles O51, by induction over the echo: each chunk is the front of what is unread and goes to the end of the
second buffer. -/
theorem echoCopiesTheUnreadBytes : Obligations.EchoCopiesTheUnreadBytes := by
  intro s t h0 h1 i o hecho hne hin hout hr hw ha hinv hlen
  induction hecho generalizing i o with
  | stop hn hread hnone _ =>
    obtain rfl := runs_fread.mp hread
    rw [fread_rpayload hin hr] at hnone
    have hunread : i.buf.drop i.pos.toNat = [] := unread_eq_nil_of_readData hn hnone
    exact ⟨o, holds_fread_other hin hr hout hne, by rw [hunread, List.append_nil]⟩
  | @chunk s t u v n hread _ _ hwrite _ ih =>
    obtain rfl := runs_fread.mp hread
    obtain rfl := runs_fwrite.mp hwrite
    rw [fread_rpayload hin hr] at ih
    have hout' := holds_fread_other (n := n) hin hr hout hne
    have hin' := holds_fwrite_other (bytes := readData n i) hout' hw (holds_fread_same hin hr) hne.symm
    have hgrown := holds_fwrite_same (bytes := readData n i) hout' hw
    rw [writeThrough_append ha] at hgrown
    obtain ⟨o', ho', hbuf⟩ := ih _ _ hin' hgrown hr hw ha (readAdvance_inv hinv) hlen
    refine ⟨o', ho', ?_⟩
    calc o'.buf = o.buf ++ readData n i ++ (readAdvance n i).unread := hbuf
      _ = o.buf ++ i.unread := by rw [List.append_assoc, readData_append_unread hinv hlen]

end Sys2Proof.Machine
end

section
/-! SUPPORT. Faults and failures: the grounds on which `INIT` fails and the latch it leaves, and the capture of a runtime
fault. -/

namespace Sys2Proof.Machine

/-! ### The failures of `INIT` -/

section

variable {env : Env} {bytes : List Byte} {ops : InitOperands} {s : State}

/-- The loader's guard answers `Err`: the loader itself did, or its image breaks a limit of R233. -/
theorem loadImage_eq_none {ops : LoadOperands} :
    loadImage env ops = none ↔
      env.load ops = none ∨
      ∃ r, env.load ops = some r ∧
        (ops.maxMemory.toNat < r.image.length ∨ r.image.length < ops.stackSize.toNat) := by
  simp only [Option.eq_none_iff_forall_ne_some, ne_eq, loadImage_eq_some, ← Nat.not_le, ← not_and_or]
  cases env.load ops with
  | none => simp
  | some r => simp

/-- `INIT` with a well-formed payload outside a fresh `Uninitialized` (R222, R309). -/
theorem initIn_badState (hops : initOperands bytes = some ops)
    (hstate : s.xstate ≠ .uninitialized ∨ s.initFailed = true) :
    initIn env bytes s = s.answer (errorResponse .badState) := by
  simp only [initIn, hops, if_pos hstate]

/-- `INIT` in a fresh `Uninitialized` when `max_files` or the loader fails it (R222, R309). -/
theorem initIn_fails (hops : initOperands bytes = some ops) (hx : s.xstate = .uninitialized)
    (hclear : s.initFailed = false)
    (hground : 65536 < (loadOperands env ops).maxFiles.toNat ∨ loadImage env (loadOperands env ops) = none) :
    initIn env bytes s = s.initFails := by
  obtain ⟨hnone, -⟩ | ⟨ops', hops', ⟨hstate, -⟩ | ⟨-, -, he⟩ | ⟨r, -, -, hfiles, hload, -⟩⟩ := initIn_cases env bytes s
  · rw [hops] at hnone
    cases hnone
  · simp [hx, hclear] at hstate
  · exact he
  · rw [hops] at hops'
    cases hops'
    obtain hmany | hnone := hground
    · omega
    · rw [hload] at hnone
      cases hnone

end

/-- Settles O27: each ground is one of `initIn_fails`, and the state it leaves is latched and not `Running`. -/
theorem initFailureLatches : Obligations.InitFailureLatches := by
  refine ⟨fun _ _ => rfl, ?_⟩
  rintro env bytes ops s t hops hx hclear hground rfl
  have hfails : initIn env bytes s = s.initFails := initIn_fails hops hx hclear (hground.imp_right loadImage_eq_none.mpr)
  have hidle : s.initFails.xstate ≠ .running := by simp [hx]
  exact ⟨hfails, fun bytes' ops' hops' => initIn_badState hops' (.inr rfl),
    fun budget => congrArg Host.Outcome.next (execIn_notRunning budget hidle)⟩

/-! ### The capture of a runtime fault -/

/-- Settles O32: the fault ends the first cycle of the loop (O29), and the answers are those of an engine in `Error`
(O33), which runs no cycle. -/
theorem faultIsCaptured : Obligations.FaultIsCaptured := by
  obtain ⟨-, -, -, hrun⟩ := execFollowsTheOutcomes
  obtain ⟨-, -, -, hinspect⟩ := stateInspection
  intro env b s u t k hx hb hcycle ht
  obtain ⟨-, -, hfault⟩ := (hrun env b (fun _ => s) 0 hx nofun).2 hb u
  rw [hfault k hcycle] at ht
  subst ht
  obtain ⟨hstate, herr, hret⟩ := hinspect { u with xstate := .error k, resp := { rdata := 1, rtag := 4 } }
  exact ⟨rfl, hstate, herr, hret, fun b' => congrArg Host.Outcome.next (execIn_notRunning b' nofun)⟩

end Sys2Proof.Machine
end
